-- ==== Sys2Proof/Word.lean ====
section
/-! DEFINITION. The bit vectors of the receive core whose widths no parameter changes (00_scope R9; 30_encoding R74, R75).
Every value is unsigned and bit 0 is the least significant bit (R9). The registers whose widths are parameters (00_scope R7)
are natural numbers, narrowed by the operations that write them (notes/assumptions/9.md). -/

namespace Sys2Proof

/-- One byte of the packet buffer (10_state R28). -/
abbrev Byte := BitVec 8

/-- An operation word (30_encoding R74). -/
abbrev OpWord := BitVec 32

/-- The bits `[27:0]` of an operation word, which hold the timestamp of format T for every `TS_W` up to 28
(30_encoding R74, 00_scope R7). -/
abbrev TsField := BitVec 28

/-- A consumer byte index, 3 bits (20_memory R56, 30_encoding R75). -/
abbrev ByteIndex := BitVec 3

end Sys2Proof
end

