-- ==== Sys2Proof/Config.lean ====
section
/-! DEFINITION. What an implementation of the receive core fixes: the parameter record of 00_scope R7, and the two
values the spec leaves open (10_state R28 and R30), which have no body here, so that a theorem holds for every choice. -/

namespace Sys2Proof

/-- The parameters of 00_scope R7. This hardware's values are `Sys2Proof.Machine.hw`. -/
structure Params where
  /-- `TS_W`: width of a timestamp and of PREV_TS -/
  tsW : Nat
  /-- `TU_PER_TICK`: time units per timer tick -/
  tuPerTick : Nat
  /-- `SHORT_MIN`: lowest SHORT period, inclusive -/
  shortMin : Nat
  /-- `SHORT_MAX`: highest SHORT period, inclusive -/
  shortMax : Nat
  /-- `LONG_MIN`: lowest LONG period, inclusive -/
  longMin : Nat
  /-- `LONG_MAX`: highest LONG period, inclusive -/
  longMax : Nat
  /-- `SYNC_THRESHOLD`: a sync LONG needs SHORTCNT above this -/
  syncThreshold : Nat
  /-- `PKT_BITS`: packet length in bits -/
  pktBits : Nat
  /-- `PKT_BYTES`: packet buffer size in bytes -/
  pktBytes : Nat
  /-- `CNT_W`: width of SHORTCNT -/
  cntW : Nat
  /-- `CUR_W`: width of CURSOR -/
  curW : Nat
  /-- `EDGE_SEL_INIT`: power-on value of EDGE_SEL -/
  edgeSelInit : Bool
  deriving DecidableEq, Repr

/-- `EDGE_SEL_INIT`, which the spec leaves OPEN (00_scope R7, 92_eei_decisions D8). A free value: it has no body
(notes/assumptions/2.md). -/
opaque Config.edgeSelInit : Bool

/-- The contents of byte `addr` of BUF after a power-on reset: "any 64-bit value" (70_reset R230, 10_state R28). A free
value: `draw` counts the power-on resets, so that each one draws anew (notes/assumptions/1.md). -/
opaque Config.powerOnByte (draw addr : Nat) : Byte

end Sys2Proof
end

