-- ==== Sys2Proof/Syntax.lean ====
section
/-! DEFINITION. The nine operations of the receive core, one constructor per row of spec/opcode_table.json
(30_encoding R76). An operand is the field of its format (R74, R75): a
timestamp's upper bits, above `TS_W`, are 0 in a well-formed operation. -/

namespace Sys2Proof

/-- An operation of the core (30_encoding R76). -/
inductive Instr where
  /-- NOP (41_receive_fsm R131) -/
  | nop
  /-- CAPTURE TS (41_receive_fsm R120) -/
  | capture (ts : TsField)
  /-- OVERFLOW (41_receive_fsm R130) -/
  | overflow
  /-- RX_RESET (41_receive_fsm R129) -/
  | rxReset
  /-- READ_STATUS (43_consumer_ops R170) -/
  | readStatus
  /-- READ_BYTE IDX (43_consumer_ops R171) -/
  | readByte (idx : ByteIndex)
  /-- READ_STATION_ID (43_consumer_ops R172) -/
  | readStationId
  /-- READ_PKT_TYPE (43_consumer_ops R173) -/
  | readPktType
  /-- POWER_ON_RESET (70_reset R230) -/
  | powerOnReset
  deriving DecidableEq, Repr

end Sys2Proof
end

