-- ==== Sys2Proof/Machine/State.lean ====
section
/-! DEFINITION. The state of the receive core (10_state R20 to R35), its values after power-on reset (70_reset R230),
and why a step can stop. -/

namespace Sys2Proof.Machine

/-- The receiver state of 10_state R23, all four values of the 2-bit register. -/
inductive RxState where
  /-- `0b00` -/
  | idle
  /-- `0b01` -/
  | receiving
  /-- `0b10` -/
  | packetReceived
  /-- `0b11`: reserved, unreachable -/
  | reserved
  deriving DecidableEq, Repr

/-- The packet buffer: (byte index, byte) pairs in canonical form (`Memory.wf`). A byte that is not listed holds the
current power-on draw (notes/assumptions/18.md). -/
abbrev Memory := List Host.Cell

/-- The state of the core: the registers of 10_state R23 to R31, and three fields of the model's own. A register whose width
is a parameter is a number, which the operations keep below 2 to its width (`Fits`; notes/assumptions/9.md). -/
structure State where
  /-- RXSTATE, 2 bits (R23) -/
  rxState : RxState
  /-- SHORTCNT, `CNT_W` bits, 8 on this hardware (R24) -/
  shortCnt : Nat
  /-- PENDING, 1 bit (R25) -/
  pending : Bool
  /-- HALF, 1 bit (R26) -/
  half : Bool
  /-- CURSOR, `CUR_W` bits, 7 on this hardware (R27) -/
  cursor : Nat
  /-- INDICATOR, 1 bit (R31) -/
  indicator : Bool
  /-- PREV_TS, `TS_W` bits, 16 on this hardware (R29) -/
  prevTs : Nat
  /-- EDGE_SEL, 1 bit (R30) -/
  edgeSel : Bool
  /-- BUF, `PKT_BYTES` bytes, 8 on this hardware (R28): the bytes that differ from the current power-on draw -/
  mem : Memory
  /-- the model's own: which power-on draw BUF started from (notes/assumptions/1.md) -/
  draws : Nat
  /-- the model's own: the operation words presented and not yet performed, next first (notes/assumptions/3.md) -/
  input : List OpWord
  /-- the model's own: the values READ operations have returned, newest first (notes/assumptions/5.md) -/
  returns : List Byte
  deriving DecidableEq, Repr

/-- The state right after a power-on reset (70_reset R230, R231), with no operation presented and nothing returned. The
last three fields are DESIGN CHOICE (notes/assumptions/17.md). -/
def State.reset : State where
  rxState := .idle
  shortCnt := 0
  pending := false
  half := false
  cursor := 0
  indicator := false
  prevTs := 0
  edgeSel := Config.edgeSelInit
  mem := []
  draws := 0
  input := []
  returns := []

/-- The core raises no exception, trap or fault (60_exceptions R200): there is no reason to list, and no step faults. -/
inductive Fault
  deriving DecidableEq, Repr

/-- Why the model refuses to step. None of these is a behaviour of the core. -/
inductive Refusal where
  /-- Raised by `exec` for an instruction that has no meaning yet; no arm does. Safe. -/
  | notModelled (mnemonic : String)
  /-- Raised by `step` for a word with `OP` in `0x8` to `0xE` (30_encoding R79, D20). Safe. -/
  | reservedOpcode
  /-- Raised by `step` for a word with a reserved bit set (30_encoding R79, D20). Safe. -/
  | reservedBits
  /-- Raised by every meaning in a state that holds RXSTATE = `0b11` (10_state R23, 93 V1). Safe. -/
  | reservedRxState
  /-- Raised by `execConfigured` for parameters that break 00_scope R7's conditions (93 V6). Safe. -/
  | illFormedConfig
  /-- Raised by `execConfigured` for windows not centred on 500 and 1000 time units (00_scope R7). Safe. -/
  | asymmetricWindows
  deriving DecidableEq, Repr

/-- The outcome of one operation. -/
abbrev Outcome := Host.Outcome State Fault Refusal

end Sys2Proof.Machine
end

