-- ==== Sys2Proof/Machine/Flags.lean ====
section
/-! DEFINITION. The flags PENDING and HALF (10_state R25, R26), the derived signal PKT_READY (R32), and the status word
(30_encoding R78). -/

namespace Sys2Proof.Machine

/-- The 2-bit encoding of the receiver state (10_state R23). -/
def rxCode : RxState → BitVec 2
  | .idle => 0b00#2
  | .receiving => 0b01#2
  | .packetReceived => 0b10#2
  | .reserved => 0b11#2

/-- `PKT_READY = (RXSTATE == PACKET_RECEIVED)` (10_state R32). -/
def pktReady (s : State) : Bool := decide (s.rxState = .packetReceived)

/-- The status word `{0b000, EDGE_SEL, INDICATOR, PKT_READY, RXSTATE[1:0]}` (30_encoding R78, 43_consumer_ops R170). -/
def statusWord (s : State) : Byte :=
  0b000#3 ++ (BitVec.ofBool s.edgeSel ++ (BitVec.ofBool s.indicator ++ (BitVec.ofBool (pktReady s) ++ rxCode s.rxState)))

/-- A SHORT waits for its pair: `HALF <- 1` (42_bit_decoder R151). -/
def setHalf (s : State) : State := { s with half := true }

/-- The pair is complete: `HALF <- 0` (42_bit_decoder R151). -/
def clearHalf (s : State) : State := { s with half := false }

/-- A LONG toggles the bit value: `PENDING <- not PENDING` (42_bit_decoder R152). -/
def flipPending (s : State) : State := { s with pending := !s.pending }

end Sys2Proof.Machine
end

