-- ==== Sys2Proof/Machine/Parameters.lean ====
section
/-! DEFINITION. This hardware's parameters and the conditions on a configuration (00_scope R7, R8). -/

namespace Sys2Proof.Machine

/-- The defaults of R7: "The default is the value this hardware takes". -/
def hw : Params where
  tsW := 16
  tuPerTick := 4
  shortMin := 450
  shortMax := 550
  longMin := 950
  longMax := 1050
  syncThreshold := 100
  pktBits := 64
  pktBytes := 8
  cntW := 8
  curW := 7
  edgeSelInit := Config.edgeSelInit

/-- "A configuration is well formed only if all of the following hold" (R7). -/
def paramsWellFormed (c : Params) : Bool :=
  decide (c.shortMin ≤ c.shortMax) && decide (c.shortMax < c.longMin) && decide (c.longMin ≤ c.longMax)
    && decide (c.syncThreshold < 2 ^ c.cntW - 1)
    && decide (c.pktBits = 8 * c.pktBytes)
    && decide (c.pktBits + 1 < 2 ^ c.curW)
    && decide (1 ≤ c.tsW) && decide (c.tsW ≤ 28)
    && decide (1 ≤ c.tuPerTick)

/-- The windows are symmetric around the nominal 500 and 1000 time units (R7). -/
def paramsSymmetric (c : Params) : Bool :=
  decide (c.shortMin + c.shortMax = 2 * 500) && decide (c.longMin + c.longMax = 2 * 1000)

/-- "A model should accept a configuration only if" it is well formed and symmetric (R7). -/
def paramsAccepted (c : Params) : Bool := paramsWellFormed c && paramsSymmetric c

/-- `ceil(log2 n)` for `n >= 1`. -/
def ceilLog2 (n : Nat) : Nat := if 2 ^ n.log2 = n then n.log2 else n.log2 + 1

/-- `P_W = TS_W + ceil(log2(TU_PER_TICK))` (R8). -/
def periodWidth (c : Params) : Nat := c.tsW + ceilLog2 c.tuPerTick

end Sys2Proof.Machine
end

