-- ==== Sys2Proof/Machine/Operands.lean ====
section
/-! DEFINITION. The operands an operation works on: the timestamp of a CAPTURE (30_encoding R75), its difference
from the previous one (40_classifier R100), and the byte
and the bit of the packet buffer that an index names (20_memory R51, R53, R56). -/

namespace Sys2Proof.Machine

/-- `TS = word[TS_W-1:0]` (30_encoding R75). A well-formed operation has no bit above them; of any other, none is read
(notes/assumptions/9.md). -/
def timestampOperand (c : Params) (ts : TsField) : Nat := ts.toNat % 2 ^ c.tsW

/-- `delta = (TS - PREV_TS) mod 2^TS_W` (40_classifier R100). -/
def tickDelta (c : Params) (ts prev : Nat) : Nat := (ts + (2 ^ c.tsW - prev % 2 ^ c.tsW)) % 2 ^ c.tsW

/-- The byte index of packet bit `k`: `k / 8` (20_memory R51). -/
def byteOfBit (k : Nat) : Nat := k / 8

/-- The bit offset of packet bit `k`, 0 the most significant: `k mod 8` (20_memory R51). -/
def offsetOfBit (k : Nat) : Nat := k % 8

/-- `mask = 0x80 >> off` (20_memory R53). -/
def offsetMask (off : Nat) : Byte := 0x80#8 >>> off

/-- A byte with the bit at offset `off` set or cleared (20_memory R53). -/
def withOffsetBit (old : Byte) (off : Nat) (b : Bool) : Byte :=
  if b then old ||| offsetMask off else old &&& ~~~ offsetMask off

/-- The bit at offset `off` of a byte: value bit `7 - off` (20_memory R51). -/
def offsetBit (v : Byte) (off : Nat) : Bool := v.getLsbD (7 - off)

end Sys2Proof.Machine
end

