-- ==== Sys2Proof/Machine/Ops.lean ====
section
/-! DEFINITION. The named operations over the packet buffer and the registers: byte and bit access (20_memory R50 to
R53), the common update of a CAPTURE (40_classifier R104), the full reset (41_receive_fsm R121), which is the core's only
recovery and the nearest thing it has to taking an exception (60_exceptions R204), the power-on reset (70_reset R230), and
the value a READ gives (00_scope R10). The core has no trap entry and no return from one (60_exceptions R204, R205). -/

namespace Sys2Proof.Machine

/-- What a byte that is not listed holds: the power-on draw (10_state R28). -/
def memUnlisted (draw addr : Nat) : Byte := Config.powerOnByte draw addr

/-- The byte at an index. -/
def memRead (draw : Nat) : Memory → Nat → Byte
  | [], a => memUnlisted draw a
  | (b, v) :: m, a => if b = a then v else memRead draw m a

/-- The memory without an entry for an address. -/
def memErase : Memory → Nat → Memory
  | [], _ => []
  | (b, v) :: m, a => if b = a then memErase m a else (b, v) :: memErase m a

/-- The memory with a new entry before the first entry of a higher address. -/
def memInsert : Memory → Nat → Byte → Memory
  | [], a, v => [(a, v)]
  | (b, w) :: m, a, v => if a < b then (a, v) :: (b, w) :: m else (b, w) :: memInsert m a v

/-- The memory after a byte is written: no entry is kept that equals what an unlisted address reads as. -/
def memWrite (draw : Nat) (m : Memory) (a : Nat) (v : Byte) : Memory :=
  if v = memUnlisted draw a then memErase m a else memInsert (memErase m a) a v

/-- The canonical form of a buffer of `size` bytes: addresses strictly rising, within the buffer, and no entry equal to
what an unlisted address reads as. -/
abbrev Memory.wf (size draw : Nat) (m : Memory) : Prop :=
  m.Pairwise (fun x y => x.1 < y.1) ∧ ∀ c ∈ m, c.1 < size ∧ c.2 ≠ memUnlisted draw c.1

/-- `BUF[i]` (00_scope R10). A byte at or above `PKT_BYTES` is never written, so it holds its draw
(notes/assumptions/20.md). -/
def bufByte (s : State) (i : Nat) : Byte := memRead s.draws s.mem i

/-- Packet bit `k`: value bit `7 - (k mod 8)` of `BUF[k / 8]` (20_memory R51). -/
def packetBit (s : State) (k : Nat) : Bool := offsetBit (bufByte s (byteOfBit k)) (offsetOfBit k)

/-- `BUF[i] <- v`. -/
def writeByte (s : State) (i : Nat) (v : Byte) : State := { s with mem := memWrite s.draws s.mem i v }

/-- `BitWrite(k, b)`: no effect for `k >= PKT_BITS` (20_memory R53). -/
def bitWrite (c : Params) (s : State) (k : Nat) (b : Bool) : State :=
  if k < c.pktBits then
    writeByte s (byteOfBit k) (withOffsetBit (bufByte s (byteOfBit k)) (offsetOfBit k) b)
  else s

/-- `CURSOR <- CURSOR + 1`, in `CUR_W` bits (42_bit_decoder R154). -/
def advanceCursor (c : Params) (s : State) : State := { s with cursor := (s.cursor + 1) % 2 ^ c.curW }

/-- `RXSTATE <- PACKET_RECEIVED` (42_bit_decoder R154). -/
def completePacket (s : State) : State := { s with rxState := .packetReceived }

/-- Every CAPTURE writes PREV_TS and inverts EDGE_SEL (40_classifier R104). -/
def commonUpdate (s : State) (ts : Nat) : State := { s with prevTs := ts, edgeSel := !s.edgeSel }

/-- `SHORTCNT <- SHORTCNT + 1`, saturating at `2^CNT_W - 1` (41_receive_fsm R124). -/
def countShort (c : Params) (s : State) : State :=
  if s.shortCnt < 2 ^ c.cntW - 1 then { s with shortCnt := s.shortCnt + 1 } else s

/-- Sync entry (41_receive_fsm R125). -/
def enterReceiving (s : State) : State := { s with rxState := .receiving, shortCnt := 0, indicator := true }

/-- `FullReset()`: BUF, PREV_TS and EDGE_SEL are unchanged (41_receive_fsm R121). -/
def fullReset (s : State) : State :=
  { s with shortCnt := 0, cursor := 0, rxState := .idle, pending := false, half := false, indicator := false }

/-- `POWER_ON_RESET()`: FullReset's assignments, PREV_TS, EDGE_SEL, and a fresh draw of BUF (70_reset R230). -/
def powerOn (c : Params) (s : State) : State :=
  { fullReset s with prevTs := 0, edgeSel := c.edgeSelInit, mem := [], draws := s.draws + 1 }

/-- `return v`: the value a READ gives (00_scope R10). -/
def giveBack (s : State) (v : Byte) : State := { s with returns := v :: s.returns }

/-- An operation whose effect is `t` in a state whose RXSTATE is one of the three the core has: RXSTATE = `0b11` is
refused (10_state R23, 93 V1; notes/assumptions/6.md). -/
def whenLegal (s t : State) : Outcome :=
  if s.rxState = .reserved then .refused .reservedRxState else .next t

end Sys2Proof.Machine
end

