-- ==== Sys2Proof/Machine/Consumer.lean ====
section
/-! DEFINITION. The consumer's reads (43_consumer_ops R170 to R173). Each gives one value and changes nothing else. -/

namespace Sys2Proof.Machine

/-- The packet type: the low 4 bits of byte 1 (43_consumer_ops R173, 20_memory R52). -/
def packetType (s : State) : BitVec 4 := (bufByte s 1).extractLsb' 0 4

/-- READ_STATUS (43_consumer_ops R170). -/
def execReadStatus (s : State) : Outcome := whenLegal s (giveBack s (statusWord s))

/-- READ_BYTE: `MemRead(IDX, 1)` (43_consumer_ops R171). -/
def execReadByte (idx : ByteIndex) (s : State) : Outcome := whenLegal s (giveBack s (bufByte s idx.toNat))

/-- READ_STATION_ID: `BUF[0]` (43_consumer_ops R172). -/
def execReadStationId (s : State) : Outcome := whenLegal s (giveBack s (bufByte s 0))

/-- READ_PKT_TYPE: `BUF[1][3:0]`, zero-extended to 8 bits (43_consumer_ops R173). -/
def execReadPktType (s : State) : Outcome := whenLegal s (giveBack s ((packetType s).setWidth 8))

end Sys2Proof.Machine
end

