-- ==== Sys2Proof/Machine/Classifier.lean ====
section
/-! DEFINITION. The pulse classifier (40_classifier R100 to R102): from a timestamp to a pulse class. -/

namespace Sys2Proof.Machine

/-- The pulse classes (30_encoding R77). -/
inductive PulseClass where
  | invalid
  | short
  | long
  deriving DecidableEq, Repr

/-- The 2-bit code of a class; `0b11` is never produced (30_encoding R77). -/
def classCode : PulseClass → BitVec 2
  | .invalid => 0b00#2
  | .short => 0b01#2
  | .long => 0b10#2

/-- `P = zext(delta) * TU_PER_TICK`, exact, in time units (40_classifier R101). -/
def period (c : Params) (delta : Nat) : Nat := delta * c.tuPerTick

/-- `Classify(P)`: both bounds of each window are inclusive, SHORT is tested first (40_classifier R102). -/
def classify (c : Params) (p : Nat) : PulseClass :=
  if c.shortMin ≤ p ∧ p ≤ c.shortMax then .short
  else if c.longMin ≤ p ∧ p ≤ c.longMax then .long
  else .invalid

/-- The class of a CAPTURE at `ts` after one at `prev` (40_classifier R100 to R102). -/
def captureClass (c : Params) (prev ts : Nat) : PulseClass := classify c (period c (tickDelta c ts prev))

end Sys2Proof.Machine
end

