-- ==== Sys2Proof/Machine/BitDecoder.lean ====
section
/-! DEFINITION. The Manchester-style bit decoder and packet framing (42_bit_decoder R150 to R155). -/

namespace Sys2Proof.Machine

/-- The completion check of `Emit`: PACKET_RECEIVED once CURSOR exceeds `PKT_BITS` (42_bit_decoder R154). -/
def checkComplete (c : Params) (s : State) : State :=
  if c.pktBits < s.cursor then completePacket s else s

/-- `Emit(b)`: write the bit at CURSOR, advance, check completion (42_bit_decoder R154). -/
def emitBit (c : Params) (s : State) (b : Bool) : State :=
  checkComplete c (advanceCursor c (bitWrite c s s.cursor b))

/-- RECEIVING, SHORT (42_bit_decoder R151). -/
def decodeShort (c : Params) (s : State) : State :=
  if s.half then clearHalf (emitBit c s s.pending) else setHalf s

/-- RECEIVING, LONG with HALF = 0: emits the new PENDING (42_bit_decoder R152). -/
def decodeLong (c : Params) (s : State) : State :=
  emitBit c (flipPending s) (flipPending s).pending

/-- `RecvStep(c)` (42_bit_decoder R150): a LONG with HALF = 1 is a framing error (R153), an INVALID is ignored
(41_receive_fsm R127). -/
def recvStep (c : Params) (cl : PulseClass) (s : State) : State :=
  match cl with
  | .short => decodeShort c s
  | .long => if s.half then fullReset s else decodeLong c s
  | .invalid => s

end Sys2Proof.Machine
end

