-- ==== Sys2Proof/Machine/Receiver.lean ====
section
/-! DEFINITION. CAPTURE as a whole and the receive state machine, NOP, OVERFLOW and RX_RESET (41_receive_fsm R120 to
R131). -/

namespace Sys2Proof.Machine

/-- IDLE, LONG: sync entry, or a short preamble's full reset (41_receive_fsm R125). -/
def idleLong (c : Params) (s : State) : State :=
  if c.syncThreshold < s.shortCnt then enterReceiving s else fullReset s

/-- `IdleStep(c)` (41_receive_fsm R123 to R126). -/
def idleStep (c : Params) (cl : PulseClass) (s : State) : State :=
  match cl with
  | .short => countShort c s
  | .long => idleLong c s
  | .invalid => fullReset s

/-- The state-dependent action of a CAPTURE of class `cl` (41_receive_fsm R120). PACKET_RECEIVED is frozen (R128); the
last arm is never reached by an operation (`whenLegal`). -/
def dispatchClass (c : Params) (cl : PulseClass) (s : State) : State :=
  match s.rxState with
  | .idle => idleStep c cl s
  | .receiving => recvStep c cl s
  | .packetReceived => s
  | .reserved => s

/-- `CAPTURE(TS)`: classify, update PREV_TS and EDGE_SEL, act by receiver state (41_receive_fsm R120). -/
def captureAt (c : Params) (ts : Nat) (s : State) : State :=
  dispatchClass c (captureClass c s.prevTs ts) (commonUpdate s ts)

/-- CAPTURE with the operand of an operation word (30_encoding R75). -/
def captureEffect (c : Params) (ts : TsField) (s : State) : State := captureAt c (timestampOperand c ts) s

/-- NOP: nothing (41_receive_fsm R131). -/
def execNop (s : State) : Outcome := whenLegal s s

/-- CAPTURE (41_receive_fsm R120). -/
def execCapture (ts : TsField) (s : State) : Outcome := whenLegal s (captureEffect hw ts s)

/-- OVERFLOW: nothing, not even PREV_TS or EDGE_SEL (41_receive_fsm R130). -/
def execOverflow (s : State) : Outcome := whenLegal s s

/-- RX_RESET: a full reset in every receiver state (41_receive_fsm R129). -/
def execRxReset (s : State) : Outcome := whenLegal s (fullReset s)

end Sys2Proof.Machine
end

