-- ==== Sys2Proof/Machine/Reset.lean ====
section
/-! DEFINITION. POWER_ON_RESET (70_reset_and_hazards R230). -/

namespace Sys2Proof.Machine

/-- POWER_ON_RESET (70_reset R230). -/
def execPowerOnReset (s : State) : Outcome := whenLegal s (powerOn hw s)

end Sys2Proof.Machine
end

