-- ==== Sys2Proof/Machine/Dispatch.lean ====
section
/-! DEFINITION. One arm per operation of the opcode table (30_encoding R76). -/

namespace Sys2Proof.Machine

def exec (i : Instr) (s : State) : Host.Outcome State Fault Refusal :=
  match i with
  | .nop => Sys2Proof.Machine.execNop s
  | .capture ts => Sys2Proof.Machine.execCapture ts s
  | .overflow => Sys2Proof.Machine.execOverflow s
  | .rxReset => Sys2Proof.Machine.execRxReset s
  | .readStatus => Sys2Proof.Machine.execReadStatus s
  | .readByte idx => Sys2Proof.Machine.execReadByte idx s
  | .readStationId => Sys2Proof.Machine.execReadStationId s
  | .readPktType => Sys2Proof.Machine.execReadPktType s
  | .powerOnReset => Sys2Proof.Machine.execPowerOnReset s

end Sys2Proof.Machine
end

