-- ==== Sys2Proof/WellFormed.lean ====
section
/-! DEFINITION. The checks on what reaches the core: the operand of an operation fits its field (30_encoding R75, R81),
an operation comes from an agent that may issue it (60_exceptions R207), and an operation word sets no reserved bit and
has a defined op field (30_encoding R79). -/

namespace Sys2Proof

/-- Every operand fits its field: `<ts>` in `0..2^TS_W-1`, `<i>` in `0..7` (30_encoding R81). -/
def Instr.wellFormed (c : Params) : Instr → Bool
  | .nop => true
  | .capture ts => decide (ts.toNat < 2 ^ c.tsW)
  | .overflow => true
  | .rxReset => true
  | .readStatus => true
  | .readByte idx => decide (idx.toNat < 8)
  | .readStationId => true
  | .readPktType => true
  | .powerOnReset => true

/-- The agents that act on the core (00_scope R14). -/
inductive Agent where
  | edgeTimer
  | packetConsumer
  | platform
  deriving DecidableEq, Repr

/-- The agent an operation belongs to: R207's "fixed, disjoint sets of operations", NOP in the Edge Timer's. R76's column
"agent", which has "any" for NOP, is `OpcodeRow.agent` (notes/assumptions/10.md). -/
def Instr.agent : Instr → Agent
  | .nop => .edgeTimer
  | .capture _ => .edgeTimer
  | .overflow => .edgeTimer
  | .rxReset => .packetConsumer
  | .readStatus => .packetConsumer
  | .readByte _ => .packetConsumer
  | .readStationId => .packetConsumer
  | .readPktType => .packetConsumer
  | .powerOnReset => .platform

/-- Which agent issues which operation (60_exceptions R207). -/
def Agent.mayIssue (a : Agent) (i : Instr) : Bool := decide (i.agent = a)

/-- A stream of operations is well formed for an agent if the agent may issue every one of them. -/
def Agent.streamWellFormed (a : Agent) (ops : List Instr) : Bool := ops.all a.mayIssue

/-- An operation word is not reserved (30_encoding R79): its `OP` is `0x0` to `0x7` or `0xF`, and every bit that its
format marks "reserved, must be 0" (R74) is clear: `[27:TS_W]` in format T, `[27:3]` in format B, `[27:0]` in format N. -/
def wordWellFormed (c : Params) (w : OpWord) : Bool :=
  let op := w.toNat / 2 ^ 28
  let low := w.toNat % 2 ^ 28
  if 0x8 ≤ op ∧ op ≤ 0xE then false
  else if op = 0x1 then decide (low < 2 ^ c.tsW)
  else if op = 0x5 then decide (low < 2 ^ 3)
  else decide (low = 0)

end Sys2Proof
end

