-- ==== Sys2Proof/Decode.lean ====
section
/-! DEFINITION. Decoding and encoding of the 32-bit operation word (30_encoding R74 to R76, R79, R80), and the opcode
table's rows as masks and matches. The decoder follows R80: it reads the 4-bit `OP`, checks the format's reserved bits
and extracts the operand. The timestamp's width `TS_W` is a parameter (00_scope R7). -/

namespace Sys2Proof

/-- Why a word is no operation (30_encoding R79). -/
inductive DecodeError where
  /-- `OP` is in `0x8` to `0xE` -/
  | reservedOpcode
  /-- a bit marked "reserved, must be 0" is set -/
  | reservedBits
  deriving DecidableEq, Repr

/-- `OP = word[31:28]` (R74). -/
def opField (w : OpWord) : BitVec 4 := w.extractLsb' 28 4

/-- `word[27:0]`: `TS = word[TS_W-1:0]` below the reserved bits of format T (R74, R75). -/
def tsField (w : OpWord) : TsField := w.extractLsb' 0 28

/-- `IDX = word[2:0]` (R75). -/
def idxField (w : OpWord) : ByteIndex := w.extractLsb' 0 3

/-- Format N: `word[27:0]` is reserved (R74). -/
def decodeFormatN (w : OpWord) (i : Instr) : Except DecodeError Instr :=
  if w.extractLsb' 0 28 = 0#28 then .ok i else .error .reservedBits

/-- Format T: `word[27:TS_W]` is reserved and `word[TS_W-1:0]` is `TS` (R74). -/
def decodeFormatT (c : Params) (w : OpWord) (f : TsField → Instr) : Except DecodeError Instr :=
  if tsField w >>> c.tsW = 0#28 then .ok (f (tsField w)) else .error .reservedBits

/-- Format B: `word[27:3]` is reserved and `word[2:0]` is `IDX` (R74). -/
def decodeFormatB (w : OpWord) (f : ByteIndex → Instr) : Except DecodeError Instr :=
  if w.extractLsb' 3 25 = 0#25 then .ok (f (idxField w)) else .error .reservedBits

/-- The operation a word stands for (R76), or why it is reserved (R79). -/
def decode (c : Params) (w : OpWord) : Except DecodeError Instr :=
  if opField w = 0x0#4 then decodeFormatN w .nop
  else if opField w = 0x1#4 then decodeFormatT c w .capture
  else if opField w = 0x2#4 then decodeFormatN w .overflow
  else if opField w = 0x3#4 then decodeFormatN w .rxReset
  else if opField w = 0x4#4 then decodeFormatN w .readStatus
  else if opField w = 0x5#4 then decodeFormatB w .readByte
  else if opField w = 0x6#4 then decodeFormatN w .readStationId
  else if opField w = 0x7#4 then decodeFormatN w .readPktType
  else if opField w = 0xF#4 then decodeFormatN w .powerOnReset
  else .error .reservedOpcode

/-- The word of an operation: `OP`, zeros in the reserved bits, the operand (R74, R76). -/
def encode : Instr → OpWord
  | .nop => 0x0#4 ++ 0#28
  | .capture ts => 0x1#4 ++ ts
  | .overflow => 0x2#4 ++ 0#28
  | .rxReset => 0x3#4 ++ 0#28
  | .readStatus => 0x4#4 ++ 0#28
  | .readByte idx => 0x5#4 ++ (0#25 ++ idx)
  | .readStationId => 0x6#4 ++ 0#28
  | .readPktType => 0x7#4 ++ 0#28
  | .powerOnReset => 0xF#4 ++ 0#28

/-- One row of the table of R76: a word selects it when `(word &&& mask) = pattern`. The agent "any" is `none`. -/
structure OpcodeRow where
  mnemonic : String
  pattern : OpWord
  mask : OpWord
  agent : Option Agent
  deriving DecidableEq, Repr

/-- CAPTURE's mask for a general `TS_W`: `0xF0000000 | (0x0FFFFFFF & ~(2^TS_W - 1))` (R76). -/
def captureMask (c : Params) : OpWord := 0xF0000000#32 ||| (0x0FFFFFFF#32 &&& ~~~ BitVec.ofNat 32 (2 ^ c.tsW - 1))

/-- The table of R76 and spec/opcode_table.json, in its order. -/
def opcodeTable (c : Params) : List OpcodeRow :=
  [ ⟨"NOP", 0x00000000#32, 0xFFFFFFFF#32, none⟩,
    ⟨"CAPTURE", 0x10000000#32, captureMask c, some .edgeTimer⟩,
    ⟨"OVERFLOW", 0x20000000#32, 0xFFFFFFFF#32, some .edgeTimer⟩,
    ⟨"RX_RESET", 0x30000000#32, 0xFFFFFFFF#32, some .packetConsumer⟩,
    ⟨"READ_STATUS", 0x40000000#32, 0xFFFFFFFF#32, some .packetConsumer⟩,
    ⟨"READ_BYTE", 0x50000000#32, 0xFFFFFFF8#32, some .packetConsumer⟩,
    ⟨"READ_STATION_ID", 0x60000000#32, 0xFFFFFFFF#32, some .packetConsumer⟩,
    ⟨"READ_PKT_TYPE", 0x70000000#32, 0xFFFFFFFF#32, some .packetConsumer⟩,
    ⟨"POWER_ON_RESET", 0xF0000000#32, 0xFFFFFFFF#32, some .platform⟩ ]

/-- The row an operation belongs to, by its mnemonic. -/
def Instr.mnemonic : Instr → String
  | .nop => "NOP"
  | .capture _ => "CAPTURE"
  | .overflow => "OVERFLOW"
  | .rxReset => "RX_RESET"
  | .readStatus => "READ_STATUS"
  | .readByte _ => "READ_BYTE"
  | .readStationId => "READ_STATION_ID"
  | .readPktType => "READ_PKT_TYPE"
  | .powerOnReset => "POWER_ON_RESET"

/-- A word selects a row (R76). -/
def rowSelects (r : OpcodeRow) (w : OpWord) : Bool := decide (w &&& r.mask = r.pattern)

/-- The operation word whose low `nbits` bits are those of `w`, the rest zero. The table numbers the bits of its one
32-bit word as the word does (notes/assumptions/12.md). -/
def tableWord (nbits w : Nat) : OpWord := BitVec.ofNat 32 (w % 2 ^ nbits)

/-- What this hardware's decoder reads from a table row's word. -/
def decodeTableWord (nbits w : Nat) : Option Instr := (decode Sys2Proof.Machine.hw (tableWord nbits w)).toOption

end Sys2Proof
end

