-- ==== Sys2Proof/Machine/Fetch.lean ====
section
/-! DEFINITION. Which operation the core performs next. The core fetches nothing (10_state R21): operations are presented
to it, in one total order (00_scope R11, 20_memory R58), and a cycle with none presented is a NOP (30_encoding R71, R73). -/

namespace Sys2Proof.Machine

/-- The next operation and the state with its word taken from the presented ones (notes/assumptions/3.md and 4.md). -/
def nextOperation (c : Params) (s : State) : Except DecodeError Instr × State :=
  match s.input with
  | [] => (.ok .nop, s)
  | w :: rest => (decode c w, { s with input := rest })

/-- The refusal of a reserved word (30_encoding R79). -/
def refusalOf : DecodeError → Refusal
  | .reservedOpcode => .reservedOpcode
  | .reservedBits => .reservedBits

/-- A word presented before those already pending. -/
def presentWord (s : State) (w : OpWord) : State := { s with input := w :: s.input }

end Sys2Proof.Machine
end

