-- ==== Sys2Proof/Machine/Step.lean ====
section
/-! DEFINITION. One step: the next operation presented to the core, performed (00_scope R11). A reserved word is refused
(30_encoding R79). -/

namespace Sys2Proof.Machine

/-- One operation of the core, at this hardware's parameters. -/
def step (s : State) : Host.Outcome State Fault Refusal :=
  match nextOperation hw s with
  | (.ok i, t) => exec i t
  | (.error e, _) => .refused (refusalOf e)

/-- The state with a table row's word presented as the next operation. -/
def State.withFetchWord (s : State) (nbits w : Nat) : State := presentWord s (tableWord nbits w)

end Sys2Proof.Machine
end

