-- ==== Sys2Proof/Machine/Assembler.lean ====
section
/-! DEFINITION. The assembler of operation streams (30_encoding R81, R82): its pseudo-operations with the timestamp cursor
and the copy of PENDING they use, and its text syntax, over lists of characters. It is no part of the core; the spec's test
vectors are written in it (D22). What R81 and R82 leave open of the text is the model's choice (notes/assumptions/16.md). -/

namespace Sys2Proof.Machine

/-- A line: an operation, or a pseudo-operation of R82. -/
inductive AsmLine where
  | op (i : Instr)
  /-- `.ts v` -/
  | setTs (v : Nat)
  /-- `X d` -/
  | edge (d : Nat)
  /-- `S` -/
  | short
  /-- `L` -/
  | long
  /-- `I` -/
  | invalid
  /-- `.rep n` and a line -/
  | rep (n : Nat) (line : AsmLine)
  /-- `BITS` and the bits -/
  | bits (bs : List Bool)
  /-- `SYNC` -/
  | sync
  deriving DecidableEq, Repr

/-- What the assembler keeps: the timestamp cursor `t` and its copy of PENDING (R82). -/
structure AsmState where
  t : Nat
  pending : Bool
  deriving DecidableEq, Repr

/-- Both start at 0 (R82). -/
def asmStart : AsmState := ⟨0, false⟩

/-- One after the other. -/
def asmSeq (f g : AsmState → List Instr × AsmState) (a : AsmState) : List Instr × AsmState :=
  ((f a).1 ++ (g (f a).2).1, (g (f a).2).2)

/-- `n` times. -/
def asmRepeat (f : AsmState → List Instr × AsmState) : Nat → AsmState → List Instr × AsmState
  | 0, a => ([], a)
  | n + 1, a => asmSeq f (asmRepeat f n) a

/-- `X d`: `CAPTURE ((t + d) mod 2^TS_W)` (R82). -/
def asmEdge (c : Params) (d : Nat) (a : AsmState) : List Instr × AsmState :=
  ([.capture (BitVec.ofNat 28 ((a.t + d) % 2 ^ c.tsW))], { a with t := (a.t + d) % 2 ^ c.tsW })

/-- `S` is `X 125`: 500 time units at `TU_PER_TICK = 4` (R82). -/
def asmShort (c : Params) : AsmState → List Instr × AsmState := asmEdge c 125

/-- `L` is `X 250`: 1000 time units at `TU_PER_TICK = 4` (R82). -/
def asmLong (c : Params) : AsmState → List Instr × AsmState := asmEdge c 250

/-- `I` is `X 25`: 100 time units at `TU_PER_TICK = 4` (R82). -/
def asmInvalid (c : Params) : AsmState → List Instr × AsmState := asmEdge c 25

/-- `BITS`: two SHORTs for a bit equal to the copy of PENDING, else a LONG and the copy is inverted (R82). -/
def asmBits (c : Params) : List Bool → AsmState → List Instr × AsmState
  | [], a => ([], a)
  | b :: bs, a =>
    if b = a.pending then asmSeq (asmSeq (asmShort c) (asmShort c)) (asmBits c bs) a
    else asmSeq (asmLong c) (asmBits c bs) { a with pending := !a.pending }

/-- A real operation: CAPTURE sets `t`; RX_RESET clears the copy of PENDING; POWER_ON_RESET clears both (R82). -/
def asmOp (c : Params) (i : Instr) (a : AsmState) : List Instr × AsmState :=
  match i with
  | .capture ts => ([.capture ts], { a with t := timestampOperand c ts })
  | .rxReset => ([.rxReset], { a with pending := false })
  | .powerOnReset => ([.powerOnReset], asmStart)
  | .nop => ([.nop], a)
  | .overflow => ([.overflow], a)
  | .readStatus => ([.readStatus], a)
  | .readByte idx => ([.readByte idx], a)
  | .readStationId => ([.readStationId], a)
  | .readPktType => ([.readPktType], a)

/-- The operations a line stands for, and the assembler's state after it (R82). -/
def asmLine (c : Params) : AsmLine → AsmState → List Instr × AsmState
  | .op i, a => asmOp c i a
  | .setTs v, a => ([], { a with t := v })
  | .edge d, a => asmEdge c d a
  | .short, a => asmShort c a
  | .long, a => asmLong c a
  | .invalid, a => asmInvalid c a
  | .rep n line, a => asmRepeat (asmLine c line) n a
  | .bits bs, a => asmBits c bs a
  | .sync, a => asmSeq (asmRepeat (asmShort c) 101) (asmLong c) { a with pending := false }

/-- The operations of a stream, from the assembler's state at its start (R82). -/
def asmLines (c : Params) : List AsmLine → AsmState → List Instr × AsmState
  | [], a => ([], a)
  | line :: lines, a => asmSeq (asmLine c line) (asmLines c lines) a

/-- The operations of a stream. -/
def assemble (c : Params) (lines : List AsmLine) : List Instr := (asmLines c lines asmStart).1

/-! ### The text of a line (R81) -/

/-- A line without its comment: `;` starts one (R81). -/
def stripComment : List Char → List Char
  | [] => []
  | ch :: rest => if ch = ';' then [] else ch :: stripComment rest

/-- The words of a line, upper case: mnemonics are case-insensitive (R81). Of numbers R81 does not say so: that hex digits
and the `x` of `0x` may be of either case is the model's choice (notes/assumptions/16.md). -/
def asmWords : List Char → List (List Char)
  | [] => []
  | ch :: rest =>
    if ch = ' ' ∨ ch = '\t' then [] :: asmWords rest
    else
      match asmWords rest with
      | [] => [[ch.toUpper]]
      | word :: words => (ch.toUpper :: word) :: words

/-- The value of a digit in a base up to 16. -/
def digitValue (base : Nat) (ch : Char) : Option Nat :=
  let v := if '0' ≤ ch ∧ ch ≤ '9' then ch.toNat - 48 else if 'A' ≤ ch ∧ ch ≤ 'F' then ch.toNat - 55 else base
  if v < base then some v else none

/-- The value of a digit string after the digits read so far. -/
def digitsValue (base : Nat) : Nat → List Char → Option Nat
  | n, [] => some n
  | n, ch :: rest => (digitValue base ch).bind fun v => digitsValue base (n * base + v) rest

/-- A number: decimal, or hex with `0x` (R81). -/
def asmNumber : List Char → Option Nat
  | [] => none
  | ['0', 'X'] => none
  | '0' :: 'X' :: rest => digitsValue 16 0 rest
  | ch :: rest => digitsValue 10 0 (ch :: rest)

/-- A number below a bound. -/
def asmNumberBelow (bound : Nat) (word : List Char) : Option Nat :=
  (asmNumber word).bind fun n => if n < bound then some n else none

/-- The bits of a group of 0s and 1s. -/
def asmBitGroup : List Char → Option (List Bool)
  | [] => some []
  | ch :: rest =>
    if ch = '0' then (asmBitGroup rest).map (false :: ·)
    else if ch = '1' then (asmBitGroup rest).map (true :: ·)
    else none

/-- The bits of several groups. -/
def asmBitGroups : List (List Char) → Option (List Bool)
  | [] => some []
  | word :: words => (asmBitGroup word).bind fun bs => (asmBitGroups words).map (bs ++ ·)

/-- A line of one word (R81, R82). -/
def asmWordLine (word : List Char) : Option AsmLine :=
  if word = ['N', 'O', 'P'] then some (.op .nop)
  else if word = ['O', 'V', 'E', 'R', 'F', 'L', 'O', 'W'] then some (.op .overflow)
  else if word = ['R', 'X', '_', 'R', 'E', 'S', 'E', 'T'] then some (.op .rxReset)
  else if word = ['R', 'E', 'A', 'D', '_', 'S', 'T', 'A', 'T', 'U', 'S'] then some (.op .readStatus)
  else if word = ['R', 'E', 'A', 'D', '_', 'S', 'T', 'A', 'T', 'I', 'O', 'N', '_', 'I', 'D'] then some (.op .readStationId)
  else if word = ['R', 'E', 'A', 'D', '_', 'P', 'K', 'T', '_', 'T', 'Y', 'P', 'E'] then some (.op .readPktType)
  else if word = ['P', 'O', 'W', 'E', 'R', '_', 'O', 'N', '_', 'R', 'E', 'S', 'E', 'T'] then some (.op .powerOnReset)
  else if word = ['S'] then some .short
  else if word = ['L'] then some .long
  else if word = ['I'] then some .invalid
  else if word = ['S', 'Y', 'N', 'C'] then some .sync
  else none

/-- A line of a word and a number (R81, R82). The number after `.ts` is rejected at `2^TS_W` or above, and the one after
`X` may be any: both are the model's choice (notes/assumptions/16.md). -/
def asmNumberLine (c : Params) (word arg : List Char) : Option AsmLine :=
  if word = ['C', 'A', 'P', 'T', 'U', 'R', 'E'] then
    (asmNumberBelow (2 ^ c.tsW) arg).map fun n => .op (.capture (BitVec.ofNat 28 n))
  else if word = ['R', 'E', 'A', 'D', '_', 'B', 'Y', 'T', 'E'] then
    (asmNumberBelow 8 arg).map fun n => .op (.readByte (BitVec.ofNat 3 n))
  else if word = ['X'] then (asmNumber arg).map .edge
  else if word = ['.', 'T', 'S'] then (asmNumberBelow (2 ^ c.tsW) arg).map .setTs
  else none

/-- The words of a line as a line; `depth` bounds how many `.rep` may nest (R81, R82). -/
def asmParse (c : Params) : Nat → List (List Char) → Option AsmLine
  | _, [] => none
  | _, [word] => asmWordLine word
  | depth, word :: arg :: rest =>
    if word = ['B', 'I', 'T', 'S'] then (asmBitGroups (arg :: rest)).map .bits
    else
      match depth, rest with
      | _, [] => asmNumberLine c word arg
      | 0, _ :: _ => none
      | depth + 1, brace :: body =>
        if word = ['.', 'R', 'E', 'P'] ∧ brace = [Char.ofNat 123] ∧ body.getLast? = some [Char.ofNat 125] then
          (asmNumber arg).bind fun n => (asmParse c depth body.dropLast).map (.rep n)
        else none

/-- A READ operation's line may state the value the rules give (R81). -/
def AsmLine.isRead : AsmLine → Bool
  | .op .readStatus => true
  | .op (.readByte _) => true
  | .op .readStationId => true
  | .op .readPktType => true
  | .op .nop => false
  | .op (.capture _) => false
  | .op .overflow => false
  | .op .rxReset => false
  | .op .powerOnReset => false
  | .setTs _ => false
  | .edge _ => false
  | .short => false
  | .long => false
  | .invalid => false
  | .rep _ _ => false
  | .bits _ => false
  | .sync => false

/-- A line of text: at most one line of the stream, and the value a read line states after `->` (R81). That a `->` stands
at the end of the whole line alone, not in the body of a `.rep`, is the model's choice (notes/assumptions/16.md). -/
def asmText (c : Params) (text : List Char) : Option (List AsmLine × Option Nat) :=
  let words := (asmWords (stripComment text)).filter (fun w => decide (w ≠ []))
  let plain := words.takeWhile (fun w => decide (w ≠ ['-', '>']))
  let value := words.dropWhile (fun w => decide (w ≠ ['-', '>']))
  match plain, value with
  | [], [] => some ([], none)
  | _ :: _, [] => (asmParse c plain.length plain).map fun line => ([line], none)
  | _, [_, v] => (asmParse c plain.length plain).bind fun line =>
      if line.isRead then (asmNumber v).map fun n => ([line], some n) else none
  | _, _ => none

end Sys2Proof.Machine
end

