-- ==== Sys2Proof/Machine/Configured.lean ====
section
/-! DEFINITION. The core under any parameters: "A model takes them as configuration" and "A model refuses a
configuration that is not well formed" (00_scope R7, 93 U6, U7, V6). `exec`, `step` and `State.reset` are these at the
parameters of this hardware. -/

namespace Sys2Proof.Machine

/-- The effect of an operation under parameters `c`. -/
def effect (c : Params) (i : Instr) (s : State) : State :=
  match i with
  | .nop => s
  | .capture ts => captureEffect c ts s
  | .overflow => s
  | .rxReset => fullReset s
  | .readStatus => giveBack s (statusWord s)
  | .readByte idx => giveBack s (bufByte s idx.toNat)
  | .readStationId => giveBack s (bufByte s 0)
  | .readPktType => giveBack s ((packetType s).setWidth 8)
  | .powerOnReset => powerOn c s

/-- One operation under parameters `c`, which must meet R7's conditions. -/
def execConfigured (c : Params) (i : Instr) (s : State) : Outcome :=
  if ¬ paramsWellFormed c then .refused .illFormedConfig
  else if ¬ paramsSymmetric c then .refused .asymmetricWindows
  else whenLegal s (effect c i s)

/-- One step under parameters `c`. -/
def stepConfigured (c : Params) (s : State) : Outcome :=
  match nextOperation c s with
  | (.ok i, t) => execConfigured c i t
  | (.error e, _) => .refused (refusalOf e)

/-- The state right after a power-on reset under parameters `c` (70_reset R230, R231). -/
def resetConfigured (c : Params) : State := { State.reset with edgeSel := c.edgeSelInit }

end Sys2Proof.Machine
end

