-- ==== Sys2Proof/Machine/FrameErrors.lean ====
section
/-! DEFINITION. The reason labels of 60_exceptions R201: which framing error, if any, one CAPTURE is. The labels appear in
no register or port, and none is reported; each error's effect is a full reset within that CAPTURE (R204). -/

namespace Sys2Proof.Machine

/-- The reasons of R201 that end in a full reset. -/
inductive FrameError where
  /-- `FR_IDLE_INVALID`: an INVALID period while IDLE (41_receive_fsm R126) -/
  | idleInvalid
  /-- `FR_SHORT_PREAMBLE`: a LONG while IDLE with `SHORTCNT <= SYNC_THRESHOLD` (41_receive_fsm R125) -/
  | shortPreamble
  /-- `FR_MIDPAIR_LONG`: a LONG while RECEIVING with HALF = 1 (42_bit_decoder R153) -/
  | midPairLong
  deriving DecidableEq, Repr

/-- The reason of a CAPTURE of class `cl` in a state, at most one (60_exceptions R201, R203). -/
def frameError (c : Params) (cl : PulseClass) (s : State) : Option FrameError :=
  match s.rxState, cl with
  | .idle, .short => none
  | .idle, .long => if s.shortCnt ≤ c.syncThreshold then some .shortPreamble else none
  | .idle, .invalid => some .idleInvalid
  | .receiving, .short => none
  | .receiving, .long => if s.half then some .midPairLong else none
  | .receiving, .invalid => none
  | .packetReceived, .short => none
  | .packetReceived, .long => none
  | .packetReceived, .invalid => none
  | .reserved, .short => none
  | .reserved, .long => none
  | .reserved, .invalid => none

end Sys2Proof.Machine
end

