-- ==== Sys2Proof/Machine/Run.lean ====
section
/-! DEFINITION. A sequence of operations, each performed on the state the one before left (00_scope R11), under any
parameters. -/

namespace Sys2Proof.Machine

/-- Go on from an outcome that is a next state. -/
def andThen (o : Outcome) (f : State → Outcome) : Outcome :=
  match o with
  | .next t => f t
  | .fault r => .fault r
  | .refused r => .refused r

/-- The operations of a list, in order, under parameters `c`. -/
def runOps (c : Params) : List Instr → State → Outcome
  | [], s => .next s
  | i :: is, s => andThen (execConfigured c i s) (runOps c is)

end Sys2Proof.Machine
end

