-- ==== Sys2Proof/Machine/Ports.lean ====
section
/-! DEFINITION. The port view (30_encoding R70 to R73, 20_memory R55): the inputs of one clock cycle, what the core does at
its rising edge, and the outputs, which are functions of the registers. -/

namespace Sys2Proof.Machine

/-- The input ports, less `clk` and `buf_addr`, under parameters `c`: `cap_ts` is `TS_W` wide (30_encoding R70). -/
structure PortInputs (c : Params) where
  rst : Bool
  capValid : Bool
  capTs : BitVec c.tsW
  ovfValid : Bool
  rxReset : Bool
  deriving DecidableEq, Repr

/-- The output ports (30_encoding R70). -/
structure PortOutputs where
  bufRdata : Byte
  rxState : BitVec 2
  pktReady : Bool
  stationId : Byte
  pktType : BitVec 4
  pktData : BitVec 64
  indicator : Bool
  edgeSel : Bool
  deriving DecidableEq, Repr

/-- `pkt_data[63:0] = {BUF[0], ..., BUF[7]}` (20_memory R55), 64 bits under any parameters (30_encoding R70;
notes/assumptions/20.md). -/
def pktData (s : State) : BitVec 64 :=
  bufByte s 0 ++ (bufByte s 1 ++ (bufByte s 2 ++ (bufByte s 3 ++
    (bufByte s 4 ++ (bufByte s 5 ++ (bufByte s 6 ++ bufByte s 7))))))

/-- The outputs, with `buf_addr` at the consumer's byte index (30_encoding R70, R71). -/
def portOutputs (bufAddr : ByteIndex) (s : State) : PortOutputs where
  bufRdata := bufByte s bufAddr.toNat
  rxState := rxCode s.rxState
  pktReady := pktReady s
  stationId := bufByte s 0
  pktType := (bufByte s 1).extractLsb' 0 4
  pktData := pktData s
  indicator := s.indicator
  edgeSel := s.edgeSel

/-- The CAPTURE that `cap_ts` presents (30_encoding R71). -/
def portCapture {c : Params} (p : PortInputs c) : Instr := .capture (p.capTs.setWidth 28)

/-- A rising edge of `clk` under parameters `c` (30_encoding R71): POR dominates; then RX_RESET, CAPTURE and OVERFLOW, each
if its strobe is high. With no strobe the edge is a NOP. -/
def clockEdge (c : Params) (p : PortInputs c) (s : State) : Outcome :=
  if p.rst then execConfigured c .powerOnReset s
  else if p.rxReset || p.capValid || p.ovfValid then
    andThen (if p.rxReset then execConfigured c .rxReset s else .next s) fun s2 =>
      andThen (if p.capValid then execConfigured c (portCapture p) s2 else .next s2) fun s3 =>
        if p.ovfValid then execConfigured c .overflow s3 else .next s3
  else execConfigured c .nop s

/-- The operations a clock cycle performs, in order (30_encoding R73). -/
def cycleOps {c : Params} (p : PortInputs c) : List Instr :=
  if p.rst then [.powerOnReset]
  else
    match (if p.rxReset then [Instr.rxReset] else []) ++ (if p.capValid then [portCapture p] else []) ++
      (if p.ovfValid then [Instr.overflow] else []) with
    | [] => [.nop]
    | op :: ops => op :: ops

end Sys2Proof.Machine
end

