-- ==== Sys2Proof/Machine/Pulses.lean ====
section
/-! DEFINITION. Pulse streams: the classes a run of CAPTUREs sees (40_classifier R100 to R104), and the transmitter's
encoding of a bit string, which the decoder inverts (42_bit_decoder R157). The core performs neither. -/

namespace Sys2Proof.Machine

/-- The classes of consecutive CAPTUREs at the given timestamps, from the previous timestamp `prev`. -/
def classesFrom (c : Params) : Nat → List TsField → List PulseClass
  | _, [] => []
  | prev, ts :: rest =>
    captureClass c prev (timestampOperand c ts) :: classesFrom c (timestampOperand c ts) rest

/-- The CAPTURE operations at the given timestamps. -/
def captures (tss : List TsField) : List Instr := tss.map Instr.capture

/-- `Encode`: a bit equal to the pending value is SHORT, SHORT, any other is one LONG (42_bit_decoder R157). -/
def encodeBits : Bool → List Bool → List PulseClass
  | _, [] => []
  | p, b :: bs => if b = p then .short :: .short :: encodeBits p bs else .long :: encodeBits b bs

end Sys2Proof.Machine
end

