-- ==== Sys2Proof/Safety.lean ====
section
/-! DEFINITION. What counts as a safe run of the core, in the terms claims use: the receiver states the core has, the
invariant of the reachable states (10_state R34), kinds of operations, and the interleavings of two agents' streams
(60_exceptions R206). -/

namespace Sys2Proof

open Sys2Proof.Machine

/-- RXSTATE holds one of the core's three states (10_state R23, R34 (a)). -/
abbrev Legal (s : State) : Prop := s.rxState ≠ .reserved

/-- A configuration that a model accepts (00_scope R7). -/
abbrev Accepted (c : Params) : Prop := paramsAccepted c = true

/-- The invariant of the reachable states, its clauses (a) to (f) (10_state R34). -/
abbrev Reachable (c : Params) (s : State) : Prop :=
  s.rxState ≠ .reserved ∧
  (s.rxState = .idle → s.cursor = 0 ∧ s.pending = false ∧ s.half = false ∧ s.indicator = false) ∧
  (s.rxState ≠ .idle → s.shortCnt = 0) ∧
  (s.rxState = .receiving → s.cursor ≤ c.pktBits ∧ s.indicator = true) ∧
  (s.rxState = .packetReceived → s.cursor = c.pktBits + 1 ∧ s.half = false ∧ s.indicator = true) ∧
  s.shortCnt ≤ 2 ^ c.cntW - 1

/-- Every register whose width is a parameter fits its width (10_state R24, R27, R29). -/
abbrev Fits (c : Params) (s : State) : Prop :=
  s.shortCnt < 2 ^ c.cntW ∧ s.cursor < 2 ^ c.curW ∧ s.prevTs < 2 ^ c.tsW

/-- The packet buffer is in canonical form. -/
abbrev Canonical (c : Params) (s : State) : Prop := Memory.wf c.pktBytes s.draws s.mem

/-- Operations that take every receiver state to IDLE: RX_RESET and POR (41_receive_fsm R132). -/
def resetsReceiver : Instr → Bool
  | .nop => false
  | .capture _ => false
  | .overflow => false
  | .rxReset => true
  | .readStatus => false
  | .readByte _ => false
  | .readStationId => false
  | .readPktType => false
  | .powerOnReset => true

/-- The reads of the buffer (43_consumer_ops R171 to R173). -/
def readsBuffer : Instr → Bool
  | .nop => false
  | .capture _ => false
  | .overflow => false
  | .rxReset => false
  | .readStatus => false
  | .readByte _ => true
  | .readStationId => true
  | .readPktType => true
  | .powerOnReset => false

/-- CAPTURE (41_receive_fsm R120). -/
def isCapture : Instr → Bool
  | .nop => false
  | .capture _ => true
  | .overflow => false
  | .rxReset => false
  | .readStatus => false
  | .readByte _ => false
  | .readStationId => false
  | .readPktType => false
  | .powerOnReset => false

/-- `zs` is an interleaving of `xs` and `ys`, each kept in its own order (60_exceptions R206). -/
inductive Interleaving : List Instr → List Instr → List Instr → Prop where
  | done : Interleaving [] [] []
  | left (x : Instr) {xs ys zs : List Instr} : Interleaving xs ys zs → Interleaving (x :: xs) ys (x :: zs)
  | right (y : Instr) {xs ys zs : List Instr} : Interleaving xs ys zs → Interleaving xs (y :: ys) (y :: zs)

/-- The class of a CAPTURE in a state (40_classifier R100 to R102). -/
abbrev seenClass (c : Params) (s : State) (ts : TsField) : PulseClass :=
  captureClass c s.prevTs (timestampOperand c ts)

/-- Every register but BUF agrees. -/
abbrev AgreeButBuffer (s t : State) : Prop :=
  s.rxState = t.rxState ∧ s.shortCnt = t.shortCnt ∧ s.pending = t.pending ∧ s.half = t.half ∧ s.cursor = t.cursor ∧
    s.indicator = t.indicator ∧ s.prevTs = t.prevTs ∧ s.edgeSel = t.edgeSel

/-- BUF holds the same bytes, eight on this hardware. -/
def SameBuffer (c : Params) (s t : State) : Prop := ∀ i, i < c.pktBytes → bufByte s i = bufByte t i

/-- `t` is `s` with `b` emitted (42_bit_decoder R154, 20_memory R53): packet bit CURSOR is `b` if CURSOR < `PKT_BITS`,
every other bit and every other byte is as before, CURSOR is one higher in its width, and the state is PACKET_RECEIVED once
CURSOR exceeds `PKT_BITS`. PENDING, HALF, PREV_TS and EDGE_SEL are not spoken of. -/
abbrev Emitted (c : Params) (s : State) (b : Bool) (t : State) : Prop :=
  t.cursor = (s.cursor + 1) % 2 ^ c.curW ∧
  t.rxState = (if c.pktBits < (s.cursor + 1) % 2 ^ c.curW then RxState.packetReceived else s.rxState) ∧
  (∀ k, k < c.pktBits → packetBit t k = if k = s.cursor then b else packetBit s k) ∧
  (∀ i, (s.cursor < c.pktBits → i ≠ byteOfBit s.cursor) → bufByte t i = bufByte s i) ∧
  t.shortCnt = s.shortCnt ∧ t.indicator = s.indicator ∧ t.draws = s.draws ∧ t.input = s.input ∧ t.returns = s.returns

end Sys2Proof
end

