-- ==== Sys2Proof/Certificates/Slice0/Obligations.lean ====
section
/-! DEFINITION. The statements about the receive core. Each docstring names the rule of the spec it formalises; where a
statement rests on a choice of the model, the docstring names the log entry. A statement about `exec` or `step` is about this
hardware, at the default parameters of 00_scope R7; a statement with `Accepted c` is about every configuration that R7 lets a
model accept, this hardware's among them. -/

open Sys2Proof Sys2Proof.Machine

/-! ### The step -/

/-- When the next word presented decodes to an operation, a step is that operation on the state with the word taken
(00_scope R11), at this hardware's parameters and at any others. That operations are presented as words in `State.input` is
the model's (log 3). -/
def Obligations.StepRunsTheDecodedOperation : Prop :=
  ∀ (s : State) (w : OpWord) (rest : List OpWord) (i : Instr), s.input = w :: rest →
    (decode hw w = .ok i → step s = exec i { s with input := rest }) ∧
    (∀ c : Params, decode c w = .ok i → stepConfigured c s = execConfigured c i { s with input := rest })

/-- With nothing presented, a step is a NOP (30_encoding R71, R73; log 4). -/
def Obligations.StepWithNothingPresentedIsNop : Prop :=
  ∀ s : State, s.input = [] → step s = exec .nop s

/-- A reserved word is refused (30_encoding R79): `OP` in `0x8` to `0xE`, or a set bit in `[27:16]` of format T, in
`[27:3]` of format B, in `[27:0]` of format N. The refusals' two names are the model's (log 8). -/
def Obligations.ReservedWordsAreRefused : Prop :=
  ∀ (s : State) (w : OpWord) (rest : List OpWord), s.input = w :: rest →
    (0x8 ≤ w.toNat / 2 ^ 28 → w.toNat / 2 ^ 28 ≤ 0xE → step s = .refused .reservedOpcode) ∧
    (w.toNat / 2 ^ 28 = 0x1 → 2 ^ 16 ≤ w.toNat % 2 ^ 28 → step s = .refused .reservedBits) ∧
    (w.toNat / 2 ^ 28 = 0x5 → 2 ^ 3 ≤ w.toNat % 2 ^ 28 → step s = .refused .reservedBits) ∧
    (w.toNat / 2 ^ 28 ∈ [0x0, 0x2, 0x3, 0x4, 0x6, 0x7, 0xF] → 0 < w.toNat % 2 ^ 28 →
      step s = .refused .reservedBits)

/-- The machine, run over the words of a list of operations, performs those operations in order (00_scope R10, R11). The
operands fit this hardware's 16-bit timestamps (30_encoding R81). That operations are presented in `State.input` is the
model's (log 3). -/
def Obligations.CoreRunPerformsThePresentedOperations : Prop :=
  ∀ (ops : List Instr) (rest : List OpWord) (s : State), (∀ i ∈ ops, i.wellFormed hw = true) →
    s.input = ops.map encode ++ rest → Sys2Proof.core.run ops.length s = runOps hw ops { s with input := rest }

/-! ### Encoding -/

/-- Every operation's word decodes to it, with every operand value, whatever the timestamp's width (30_encoding R74 to
R76). -/
def Obligations.DecodeOfEncodeIsTheOperation : Prop :=
  ∀ (c : Params) (i : Instr), i.wellFormed c = true → decode c (encode i) = .ok i

/-- A word that decodes is the word of the operation it decodes to, whose operand fits its field: each operation has one
word per operand value (30_encoding R74 to R76, R80). -/
def Obligations.EncodeOfDecodeIsTheWord : Prop :=
  ∀ (c : Params) (w : OpWord) (i : Instr), decode c w = .ok i → encode i = w ∧ i.wellFormed c = true

/-- A word decodes exactly if it is not reserved (30_encoding R79). -/
def Obligations.DecoderAcceptsExactlyTheUnreservedWords : Prop :=
  ∀ (c : Params) (w : OpWord), (∃ i, decode c w = .ok i) ↔ wordWellFormed c w = true

/-- At most one row of the opcode table matches any word, and it is the row of the operation the word decodes to, with
CAPTURE's mask for a general `TS_W` (30_encoding R76); at this hardware that mask is `0xFFFF0000`. -/
def Obligations.DecoderAgreesWithTheOpcodeTable : Prop :=
  (∀ (c : Params) (w : OpWord) (r r' : OpcodeRow), r ∈ opcodeTable c → r' ∈ opcodeTable c → rowSelects r w = true →
    rowSelects r' w = true → r = r') ∧
  (∀ (c : Params) (w : OpWord) (r : OpcodeRow), r ∈ opcodeTable c → rowSelects r w = true →
    ∃ i, decode c w = .ok i ∧ i.mnemonic = r.mnemonic) ∧
  (∀ (c : Params) (w : OpWord) (i : Instr), decode c w = .ok i →
    ∃ r ∈ opcodeTable c, rowSelects r w = true ∧ r.mnemonic = i.mnemonic) ∧
  captureMask hw = 0xFFFF0000#32

/-- The spec's words V-D1 to V-D16 (95_test_vectors L2; 30_encoding R76, R79). -/
def Obligations.SampleWordsDecodeAsTheSpecSays : Prop :=
  decode hw 0x00000000#32 = .ok .nop ∧ decode hw 0x1000007D#32 = .ok (.capture 0x007D#28) ∧
  decode hw 0x1000FFFF#32 = .ok (.capture 0xFFFF#28) ∧ decode hw 0x10010000#32 = .error .reservedBits ∧
  decode hw 0x20000000#32 = .ok .overflow ∧ decode hw 0x30000000#32 = .ok .rxReset ∧
  decode hw 0x40000000#32 = .ok .readStatus ∧ decode hw 0x40000010#32 = .error .reservedBits ∧
  decode hw 0x50000007#32 = .ok (.readByte 7#3) ∧ decode hw 0x50000008#32 = .error .reservedBits ∧
  decode hw 0x60000000#32 = .ok .readStationId ∧ decode hw 0x70000000#32 = .ok .readPktType ∧
  decode hw 0x80000000#32 = .error .reservedOpcode ∧ decode hw 0xE0000000#32 = .error .reservedOpcode ∧
  decode hw 0xF0000000#32 = .ok .powerOnReset ∧ decode hw 0x00000001#32 = .error .reservedBits

/-! ### Reset -/

/-- The reset state is the state after a power-on reset (70_reset R230, R231): the registers' values, EDGE_SEL at the OPEN
`EDGE_SEL_INIT` (log 2), BUF at a free draw (log 1). -/
def Obligations.ResetStateIsPostPowerOn : Prop :=
  State.reset.rxState = .idle ∧ State.reset.shortCnt = 0 ∧ State.reset.pending = false ∧ State.reset.half = false ∧
  State.reset.cursor = 0 ∧ State.reset.indicator = false ∧ State.reset.prevTs = 0 ∧
  State.reset.edgeSel = Config.edgeSelInit ∧
  (∀ i, bufByte State.reset i = Config.powerOnByte State.reset.draws i) ∧ pktReady State.reset = false

/-- POWER_ON_RESET (70_reset R230): every register at its power-on value, EDGE_SEL at `EDGE_SEL_INIT` (log 2), every byte
of BUF a fresh free value (log 1), so that the status word is 0x00 or 0x10; what is presented and what was returned stay. -/
def Obligations.PowerOnResetSetsEveryRegister : Prop :=
  ∀ s : State, Legal s → ∃ t : State, exec .powerOnReset s = .next t ∧
    t.rxState = .idle ∧ t.shortCnt = 0 ∧ t.pending = false ∧ t.half = false ∧ t.cursor = 0 ∧ t.indicator = false ∧
    t.prevTs = 0 ∧ t.edgeSel = Config.edgeSelInit ∧
    (∀ i, i < 8 → bufByte t i = Config.powerOnByte (s.draws + 1) i) ∧
    statusWord t = (if Config.edgeSelInit then 0x10 else 0x00) ∧
    t.input = s.input ∧ t.returns = s.returns

/-- RX_RESET in every receiver state is a full reset: six registers cleared, BUF, PREV_TS, EDGE_SEL and all else unchanged
(41_receive_fsm R121, R129; that it acts in every receiver state is the spec's decision D14). -/
def Obligations.RxResetIsAFullReset : Prop :=
  ∀ s : State, Legal s → exec .rxReset s = .next { s with
    shortCnt := 0, cursor := 0, rxState := .idle, pending := false, half := false, indicator := false }

/-- Two full resets in a row leave the state one leaves (41_receive_fsm R122). -/
def Obligations.FullResetIsIdempotent : Prop :=
  ∀ (c : Params) (s : State), runOps c [.rxReset, .rxReset] s = runOps c [.rxReset] s

/-- RXSTATE = 0b11 is refused by every operation (10_state R23, 93 V1; log 6), at this
hardware's parameters and at any that R7 lets a model accept. -/
def Obligations.ReservedReceiverStateIsRefused : Prop :=
  ∀ (i : Instr) (s : State), s.rxState = .reserved → exec i s = .refused .reservedRxState ∧
    ∀ c : Params, Accepted c → execConfigured c i s = .refused .reservedRxState

/-! ### NOP and OVERFLOW -/

/-- NOP changes nothing, and OVERFLOW changes nothing, not even PREV_TS or EDGE_SEL (41_receive_fsm R130, R131). -/
def Obligations.NopAndOverflowChangeNothing : Prop :=
  ∀ s : State, Legal s → exec .nop s = .next s ∧ exec .overflow s = .next s

/-- Any number of NOPs and OVERFLOWs leaves every state as it is: a partial frame parks forever (41_receive_fsm R130,
R131; 70_reset R244). -/
def Obligations.NoEdgeMeansNoChange : Prop :=
  ∀ (c : Params) (ops : List Instr) (s : State), Accepted c → Legal s → (∀ i ∈ ops, i = .nop ∨ i = .overflow) →
    runOps c ops s = .next s

/-! ### The consumer's reads -/

/-- READ_STATUS returns the status word, field by field, and changes no register (43_consumer_ops R170, 30_encoding R78).
That the value is recorded in `returns` is the model's (log 5). -/
def Obligations.ReadStatusReturnsTheStatusWord : Prop :=
  ∀ s : State, Legal s → ∃ v : Byte, exec .readStatus s = .next { s with returns := v :: s.returns } ∧
    v.extractLsb' 0 2 = (if s.rxState = .idle then 0b00#2 else if s.rxState = .receiving then 0b01#2 else 0b10#2) ∧
    v.getLsbD 2 = decide (s.rxState = .packetReceived) ∧ v.getLsbD 3 = s.indicator ∧ v.getLsbD 4 = s.edgeSel ∧
    v.extractLsb' 5 3 = 0b000#3

/-- READ_BYTE returns BUF[IDX] and changes no register (43_consumer_ops R171). That the value is recorded in `returns` is the
model's (log 5). -/
def Obligations.ReadByteReturnsTheByte : Prop :=
  ∀ (s : State) (idx : ByteIndex), Legal s →
    exec (.readByte idx) s = .next { s with returns := bufByte s idx.toNat :: s.returns }

/-- READ_STATION_ID returns BUF[0], all 8 bits (43_consumer_ops R172). That the value is recorded in `returns` is the
model's (log 5). -/
def Obligations.ReadStationIdReturnsByteZero : Prop :=
  ∀ s : State, Legal s → exec .readStationId s = .next { s with returns := bufByte s 0 :: s.returns }

/-- READ_PKT_TYPE returns the low 4 bits of BUF[1], zero-extended (43_consumer_ops R173). That the value is recorded in
`returns` is the model's (log 5). -/
def Obligations.ReadPktTypeReturnsTheLowNibble : Prop :=
  ∀ s : State, Legal s → ∃ v : Byte, exec .readPktType s = .next { s with returns := v :: s.returns } ∧
    v.toNat = (bufByte s 1).toNat % 16

/-- Reads are idempotent: the same read twice returns the same value twice and changes no register (20_memory R57).
That values are recorded in `returns` is the model's (log 5). -/
def Obligations.ReadsAreIdempotent : Prop :=
  ∀ (c : Params) (i : Instr) (s : State), Accepted c → Legal s → (readsBuffer i = true ∨ i = .readStatus) →
    ∃ v : Byte, runOps c [i, i] s = .next { s with returns := v :: v :: s.returns }

/-! ### The classifier and the parameters -/

/-- The windows at this hardware's parameters, both bounds inclusive; every period has one class (40_classifier R102). -/
def Obligations.ClassifyFollowsTheWindows : Prop :=
  ∀ p : Nat,
    (classify hw p = .short ↔ 450 ≤ p ∧ p ≤ 550) ∧
    (classify hw p = .long ↔ 950 ≤ p ∧ p ≤ 1050) ∧
    (classify hw p = .invalid ↔ ¬ (450 ≤ p ∧ p ≤ 550) ∧ ¬ (950 ≤ p ∧ p ≤ 1050))

/-- The wrapped difference of any two timestamps, at any width (40_classifier R100), and this hardware's windows in ticks
(40_classifier R103). -/
def Obligations.TickWindowsOfTheClasses : Prop :=
  (∀ (c : Params) (prev ts : Nat), (tickDelta c ts prev : Int) = ((ts : Int) - (prev : Int)) % 2 ^ c.tsW) ∧
  ∀ prev ts : Nat, captureClass hw prev ts =
    (if tickDelta hw ts prev ≤ 112 then .invalid
     else if tickDelta hw ts prev ≤ 137 then .short
     else if tickDelta hw ts prev ≤ 237 then .invalid
     else if tickDelta hw ts prev ≤ 262 then .long
     else .invalid)

/-- The period is the exact product and fits in `P_W` bits, 18 on this hardware (00_scope R8, 40_classifier R101; the
spec's decision D2). -/
def Obligations.PeriodIsExactInItsWidth : Prop :=
  periodWidth hw = 18 ∧
  ∀ (c : Params) (delta : Nat), 1 ≤ c.tuPerTick → delta < 2 ^ c.tsW →
    period c delta = delta * c.tuPerTick ∧ period c delta < 2 ^ periodWidth c

/-- A real gap of `g` ticks is classified as `g mod 2^TS_W`, and an OVERFLOW before the CAPTURE changes nothing
(40_classifier R105; the spec's decision D21). -/
def Obligations.GapsAliasModuloTheCounter : Prop :=
  (∀ (c : Params) (prev g : Nat),
    captureClass c prev ((prev + g) % 2 ^ c.tsW) = classify c (period c (g % 2 ^ c.tsW))) ∧
  (∀ (c : Params) (s : State) (ts : TsField), runOps c [.overflow, .capture ts] s = runOps c [.capture ts] s)

/-- In a well-formed configuration no period is in both windows, so the order of the two tests does not matter
(00_scope R7, 40_classifier R102). -/
def Obligations.WellFormedWindowsAreDisjoint : Prop :=
  ∀ (c : Params) (p : Nat), paramsWellFormed c = true →
    ¬ ((c.shortMin ≤ p ∧ p ≤ c.shortMax) ∧ (c.longMin ≤ p ∧ p ≤ c.longMax)) ∧
    classify c p = (if c.longMin ≤ p ∧ p ≤ c.longMax then .long
      else if c.shortMin ≤ p ∧ p ≤ c.shortMax then .short else .invalid)

/-- A configuration that breaks a condition of R7 is refused with every operation, and so is one whose windows are not
centred on 500 and 1000 time units; at this hardware's parameters the configured machine is `exec`, `step` and `State.reset`
(00_scope R7). The order of the two checks, and that asymmetric windows have a refusal of their own name, are the model's
(log 9). -/
def Obligations.IllFormedConfigurationsAreRefused : Prop :=
  (∀ (c : Params) (i : Instr) (s : State),
    ¬ (c.shortMin ≤ c.shortMax ∧ c.shortMax < c.longMin ∧ c.longMin ≤ c.longMax ∧ c.syncThreshold < 2 ^ c.cntW - 1 ∧
      c.pktBits = 8 * c.pktBytes ∧ c.pktBits + 1 < 2 ^ c.curW ∧ 1 ≤ c.tsW ∧ c.tsW ≤ 28 ∧ 1 ≤ c.tuPerTick) →
    execConfigured c i s = .refused .illFormedConfig) ∧
  (∀ (c : Params) (i : Instr) (s : State), paramsWellFormed c = true →
    ¬ (c.shortMin + c.shortMax = 2 * 500 ∧ c.longMin + c.longMax = 2 * 1000) →
    execConfigured c i s = .refused .asymmetricWindows) ∧
  (∀ (i : Instr) (s : State), execConfigured hw i s = exec i s) ∧ (∀ s : State, stepConfigured hw s = step s) ∧
  resetConfigured hw = State.reset

/-! ### CAPTURE -/

/-- Every CAPTURE in every receiver state writes PREV_TS and inverts EDGE_SEL (40_classifier R104; the spec's decisions D7 and
D8); the model's own fields are unchanged. -/
def Obligations.CaptureUpdatesPrevTsAndEdgeSel : Prop :=
  ∀ (s : State) (ts : TsField), Legal s → ∃ t : State, exec (.capture ts) s = .next t ∧
    t.prevTs = timestampOperand hw ts ∧ t.edgeSel = !s.edgeSel ∧ t.draws = s.draws ∧ t.input = s.input ∧
    t.returns = s.returns

/-- A SHORT in IDLE counts, saturating at 255, and changes no other register but the common update's
(41_receive_fsm R124; that it saturates is the spec's decision D4). -/
def Obligations.IdleShortCountsSaturating : Prop :=
  ∀ (s : State) (ts : TsField), s.rxState = .idle → seenClass hw s ts = .short →
    exec (.capture ts) s = .next { s with
      prevTs := timestampOperand hw ts, edgeSel := !s.edgeSel,
      shortCnt := if s.shortCnt < 255 then s.shortCnt + 1 else s.shortCnt }

/-- A LONG in IDLE enters RECEIVING if SHORTCNT exceeds 100, else it is a full reset (41_receive_fsm R125; that
INDICATOR is set here is the spec's decision D9). -/
def Obligations.IdleLongSyncsOrResets : Prop :=
  ∀ (s : State) (ts : TsField), s.rxState = .idle → seenClass hw s ts = .long →
    (101 ≤ s.shortCnt → exec (.capture ts) s = .next { s with
      prevTs := timestampOperand hw ts, edgeSel := !s.edgeSel, rxState := .receiving, shortCnt := 0, indicator := true }) ∧
    (s.shortCnt ≤ 100 → exec (.capture ts) s = .next { s with
      prevTs := timestampOperand hw ts, edgeSel := !s.edgeSel, rxState := .idle, shortCnt := 0, cursor := 0,
      pending := false, half := false, indicator := false })

/-- An INVALID in RECEIVING, and every class in PACKET_RECEIVED, changes PREV_TS and EDGE_SEL only
(41_receive_fsm R127, R128; 40_classifier R104, where PREV_TS in PACKET_RECEIVED is the spec's decision D7). -/
def Obligations.IgnoredPeriodsChangeNothingElse : Prop :=
  ∀ (s : State) (ts : TsField),
    (s.rxState = .receiving ∧ seenClass hw s ts = .invalid) ∨ s.rxState = .packetReceived →
    exec (.capture ts) s = .next { s with prevTs := timestampOperand hw ts, edgeSel := !s.edgeSel }

/-- A SHORT in RECEIVING: with HALF = 0 it sets HALF and emits nothing; with HALF = 1 it emits PENDING and clears HALF
(42_bit_decoder R151, R154). PENDING is unchanged. What an emit with CURSOR = 64
or above writes is the spec's decision D5, and that CURSOR wraps above 127 the model's (log 19). -/
def Obligations.ReceivingShortPairsAndEmits : Prop :=
  ∀ (s : State) (ts : TsField), s.rxState = .receiving → seenClass hw s ts = .short →
    (s.half = false → exec (.capture ts) s = .next { s with
      prevTs := timestampOperand hw ts, edgeSel := !s.edgeSel, half := true }) ∧
    (s.half = true → ∃ t : State, exec (.capture ts) s = .next t ∧ Emitted hw s s.pending t ∧
      t.half = false ∧ t.pending = s.pending ∧ t.prevTs = timestampOperand hw ts ∧ t.edgeSel = !s.edgeSel)

/-- A LONG in RECEIVING with HALF = 0 inverts PENDING and emits the new value (42_bit_decoder R152, R154). What an emit
with CURSOR = 64 or above writes is the spec's decision D5, and that CURSOR wraps above 127 the model's (log 19). -/
def Obligations.ReceivingLongTogglesAndEmits : Prop :=
  ∀ (s : State) (ts : TsField), s.rxState = .receiving → seenClass hw s ts = .long → s.half = false →
    ∃ t : State, exec (.capture ts) s = .next t ∧ Emitted hw s (!s.pending) t ∧
      t.pending = !s.pending ∧ t.half = false ∧ t.prevTs = timestampOperand hw ts ∧ t.edgeSel = !s.edgeSel

/-- The three framing errors, an INVALID in IDLE, a LONG in IDLE with SHORTCNT at most 100, and a LONG in RECEIVING with
HALF = 1, are full resets within the CAPTURE, with BUF as it was; a CAPTURE that is none of them ends in IDLE only as a
counted SHORT in IDLE (60_exceptions R201, R204; 41_receive_fsm R125, R126, R132, 42_bit_decoder R153; that the third is an
error is the spec's decision D6). -/
def Obligations.FramingErrorsResetWithinTheCapture : Prop :=
  ∀ (s : State) (ts : TsField), Legal s →
    (frameError hw (seenClass hw s ts) s ≠ none ↔
      (s.rxState = .idle ∧ seenClass hw s ts = .invalid) ∨
      (s.rxState = .idle ∧ seenClass hw s ts = .long ∧ s.shortCnt ≤ 100) ∨
      (s.rxState = .receiving ∧ seenClass hw s ts = .long ∧ s.half = true)) ∧
    (frameError hw (seenClass hw s ts) s ≠ none →
      exec (.capture ts) s = .next { s with
        prevTs := timestampOperand hw ts, edgeSel := !s.edgeSel, rxState := .idle, shortCnt := 0, cursor := 0,
        pending := false, half := false, indicator := false }) ∧
    (frameError hw (seenClass hw s ts) s = none → ∃ t : State, exec (.capture ts) s = .next t ∧
      (t.rxState = .idle → s.rxState = .idle ∧ seenClass hw s ts = .short))

/-- A CAPTURE writes no byte but the cursor's, and that one only in RECEIVING with CURSOR < 64; in any other case all of
BUF is unchanged (20_memory R53, R57; 42_bit_decoder R154, whose CURSOR above 65, in states no run reaches, is the model's,
log 19). -/
def Obligations.CaptureWritesOnlyTheCursorByte : Prop :=
  ∀ (s t : State) (ts : TsField), exec (.capture ts) s = .next t →
    (∀ i, (s.rxState = .receiving → s.cursor < 64 → i ≠ byteOfBit s.cursor) → bufByte t i = bufByte s i) ∧
    (∀ k, k < 64 → (s.rxState = .receiving → k ≠ s.cursor) → packetBit t k = packetBit s k)

/-- The transitions of RXSTATE under every operation, and no other (41_receive_fsm R132). That CURSOR wraps above 127, in
states no run reaches, is the model's (log 19). -/
def Obligations.ReceiverStateTransitions : Prop :=
  ∀ (i : Instr) (s t : State), exec i s = .next t →
    (isCapture i = false → t.rxState = if resetsReceiver i then .idle else s.rxState) ∧
    (∀ ts, i = .capture ts →
      (s.rxState = .idle → t.rxState =
        if seenClass hw s ts = .long ∧ 100 < s.shortCnt then .receiving else .idle) ∧
      (s.rxState = .receiving → t.rxState =
        if seenClass hw s ts = .invalid then .receiving
        else if seenClass hw s ts = .long ∧ s.half = true then .idle
        else if seenClass hw s ts = .short ∧ s.half = false then .receiving
        else if 64 < (s.cursor + 1) % 128 then .packetReceived else .receiving) ∧
      (s.rxState = .packetReceived → t.rxState = .packetReceived))

/-- CAPTURE by receiver state and class, at every configuration R7 lets a model accept: the counter saturates at
`2^CNT_W - 1`, sync entry needs more than `SYNC_THRESHOLD`, a packet has `PKT_BITS` bits and CURSOR `CUR_W` (41_receive_fsm
R120, R124 to R128; 42_bit_decoder R151 to R154). That CURSOR wraps in its width in states no run reaches is the model's
(log 19). -/
def Obligations.ConfiguredCaptureFollowsTheParameters : Prop :=
  ∀ (c : Params) (s : State) (ts : TsField), Accepted c →
    (s.rxState = .idle → seenClass c s ts = .short →
      execConfigured c (.capture ts) s = .next { s with
        prevTs := timestampOperand c ts, edgeSel := !s.edgeSel,
        shortCnt := if s.shortCnt < 2 ^ c.cntW - 1 then s.shortCnt + 1 else s.shortCnt }) ∧
    (s.rxState = .idle → seenClass c s ts = .long → c.syncThreshold < s.shortCnt →
      execConfigured c (.capture ts) s = .next { s with
        prevTs := timestampOperand c ts, edgeSel := !s.edgeSel, rxState := .receiving, shortCnt := 0,
        indicator := true }) ∧
    (frameError c (seenClass c s ts) s ≠ none →
      execConfigured c (.capture ts) s = .next { s with
        prevTs := timestampOperand c ts, edgeSel := !s.edgeSel, rxState := .idle, shortCnt := 0, cursor := 0,
        pending := false, half := false, indicator := false }) ∧
    (s.rxState = .receiving ∧ seenClass c s ts = .invalid ∨ s.rxState = .packetReceived →
      execConfigured c (.capture ts) s = .next { s with prevTs := timestampOperand c ts, edgeSel := !s.edgeSel }) ∧
    (s.rxState = .receiving → seenClass c s ts = .short → s.half = false →
      execConfigured c (.capture ts) s = .next { s with
        prevTs := timestampOperand c ts, edgeSel := !s.edgeSel, half := true }) ∧
    (s.rxState = .receiving → seenClass c s ts = .short → s.half = true →
      ∃ t : State, execConfigured c (.capture ts) s = .next t ∧ Emitted c s s.pending t ∧
        t.half = false ∧ t.pending = s.pending ∧ t.prevTs = timestampOperand c ts ∧ t.edgeSel = !s.edgeSel) ∧
    (s.rxState = .receiving → seenClass c s ts = .long → s.half = false →
      ∃ t : State, execConfigured c (.capture ts) s = .next t ∧ Emitted c s (!s.pending) t ∧
        t.half = false ∧ t.pending = !s.pending ∧ t.prevTs = timestampOperand c ts ∧ t.edgeSel = !s.edgeSel)

/-! ### Invariants -/

/-- Every step keeps the invariant of the reachable states, at this hardware's parameters and at any that R7 lets a model
accept (10_state R34). -/
def Obligations.StepKeepsReachable : Prop :=
  (∀ s t : State, Reachable hw s → step s = .next t → Reachable hw t) ∧
  (∀ (c : Params) (s t : State), Accepted c → Reachable c s → stepConfigured c s = .next t → Reachable c t)

/-- Every step keeps the packet buffer's canonical form, which is the model's (log 18), at this hardware's parameters and
at any that R7 lets a model accept. -/
def Obligations.StepKeepsBufferCanonical : Prop :=
  (∀ s t : State, Canonical hw s → step s = .next t → Canonical hw t) ∧
  (∀ (c : Params) (s t : State), Accepted c → Canonical c s → stepConfigured c s = .next t → Canonical c t)

/-- Every step keeps every register within its width (10_state R24, R27, R29): SHORTCNT in `CNT_W` bits, CURSOR in `CUR_W`,
PREV_TS in `TS_W`. That CURSOR wraps in its width in states no run reaches is the model's (log 19). -/
def Obligations.StepKeepsRegistersInTheirWidths : Prop :=
  (∀ s t : State, Fits hw s → step s = .next t → Fits hw t) ∧
  (∀ (c : Params) (s t : State), Accepted c → Fits c s → stepConfigured c s = .next t → Fits c t)

/-- The invariants hold in the reset state, at this hardware's parameters and at any that R7 lets a model accept
(10_state R34, 70_reset R231; the canonical form: log 18). -/
def Obligations.ResetMeetsBothInvariants : Prop :=
  (Reachable hw State.reset ∧ Canonical hw State.reset ∧ Fits hw State.reset) ∧
  (∀ c : Params, Accepted c →
    Reachable c (resetConfigured c) ∧ Canonical c (resetConfigured c) ∧ Fits c (resetConfigured c))

/-- In canonical form, equal bytes are equal data: two buffers over one draw that read alike are one list (log 18;
20_memory R50). -/
def Obligations.EqualBuffersAreEqualData : Prop :=
  ∀ (c : Params) (s t : State), Canonical c s → Canonical c t → s.draws = t.draws → SameBuffer c s t → s.mem = t.mem

/-! ### The whole machine -/

/-- Every operation is total on every state whose RXSTATE is one of the three: every list of operations completes, at every
configuration R7 lets a model accept (60_exceptions R200). -/
def Obligations.EveryOperationSequenceCompletes : Prop :=
  ∀ (c : Params) (ops : List Instr) (s : State), Accepted c → Legal s → ∃ t : State, runOps c ops s = .next t ∧ Legal t

/-- From PACKET_RECEIVED, any operations without RX_RESET and POR leave the packet and every register of the receive path
frozen (20_memory R59, 41_receive_fsm R128, 70_reset R243). -/
def Obligations.PacketIsFrozenUntilReset : Prop :=
  ∀ (c : Params) (ops : List Instr) (s : State), Accepted c → s.rxState = .packetReceived →
    (∀ i ∈ ops, resetsReceiver i = false) →
    ∃ t : State, runOps c ops s = .next t ∧ t.rxState = .packetReceived ∧ t.mem = s.mem ∧ t.draws = s.draws ∧
      t.cursor = s.cursor ∧ t.pending = s.pending ∧ t.half = s.half ∧ t.shortCnt = s.shortCnt ∧
      t.indicator = s.indicator

/-- Only CAPTURE and the power-on reset change BUF (20_memory R57, 10_state R28, 70_reset R230). -/
def Obligations.OnlyCaptureWritesTheBuffer : Prop :=
  ∀ (i : Instr) (s t : State), exec i s = .next t → isCapture i = false → i ≠ .powerOnReset →
    ∀ a, bufByte t a = bufByte s a

/-- An operation the Packet Consumer may issue, other than RX_RESET, and NOP too, changes no register and no byte: only a
value is returned (60_exceptions R207, 20_memory R57; the record of it: log 5). -/
def Obligations.ConsumerWritesOnlyByReset : Prop :=
  ∀ (i : Instr) (s : State), Legal s → (Agent.packetConsumer.mayIssue i = true ∨ i = .nop) → i ≠ .rxReset →
    ∃ t : State, exec i s = .next t ∧ t = { s with returns := t.returns }

/-- Every operation is issued by exactly one agent, the one of its row of the opcode table where the row names one
(60_exceptions R207, 30_encoding R76; for NOP, whose row says "any", log 10). -/
def Obligations.AgentsHaveDisjointOperations : Prop :=
  ∀ i : Instr, (∃ a : Agent, a.mayIssue i = true ∧ ∀ b : Agent, b.mayIssue i = true → b = a) ∧
    ∀ (c : Params) (r : OpcodeRow) (a : Agent), r ∈ opcodeTable c → r.mnemonic = i.mnemonic → r.agent = some a →
      a.mayIssue i = true

/-- After a full reset, at least `SYNC_THRESHOLD + 3` CAPTUREs, 103 on this hardware, come before the first write to BUF:
with fewer, whatever else happens but a power-on reset, BUF still holds the previous packet (20_memory R59, 70_reset R241). -/
def Obligations.FirstWriteAfterResetNeeds103Captures : Prop :=
  ∀ (c : Params) (ops : List Instr) (s t u : State), Accepted c → execConfigured c .rxReset s = .next t →
    runOps c ops t = .next u → ops.countP isCapture < c.syncThreshold + 3 → Instr.powerOnReset ∉ ops → SameBuffer c s u

/-- What BUF held before this packet, the power-on draw included, cannot be observed once PKT_READY = 1: two runs of the
same operations, from states that agree but for the bits at or above CURSOR, end with the same bytes (10_state R35). -/
def Obligations.OldBufferBitsAreUnobservableWhenReady : Prop :=
  ∀ (c : Params) (ops : List Instr) (s₁ s₂ t₁ t₂ : State), Accepted c → Reachable c s₁ → AgreeButBuffer s₁ s₂ →
    (∀ k, k < c.pktBits → k < s₁.cursor → packetBit s₁ k = packetBit s₂ k) →
    runOps c ops s₁ = .next t₁ → runOps c ops s₂ = .next t₂ → pktReady t₁ = true → SameBuffer c t₁ t₂

/-- EDGE_SEL takes no part in decoding: a run from a state with another EDGE_SEL ends in the same state but for EDGE_SEL
and the values returned (10_state R30; the record of these: log 5). -/
def Obligations.EdgeSelDecidesNothing : Prop :=
  ∀ (c : Params) (ops : List Instr) (s t : State) (b : Bool), runOps c ops s = .next t →
    ∃ t' : State, runOps c ops { s with edgeSel := b } = .next t' ∧
      t' = { t with edgeSel := t'.edgeSel, returns := t'.returns }

/-- From PACKET_RECEIVED, the buffer reads return the same values whatever the Edge Timer's operations between them: under
every interleaving (60_exceptions R206, 20_memory R59, 43_consumer_ops R174). That the values are recorded in `returns` is the
model's (log 5), and so is that an order of operations is a list (log 11). -/
def Obligations.ReadsAreTheSameUnderEveryInterleaving : Prop :=
  ∀ (c : Params) (xs ys zs : List Instr) (s : State), Accepted c → s.rxState = .packetReceived → Interleaving xs ys zs →
    Agent.edgeTimer.streamWellFormed xs = true → (∀ i ∈ ys, readsBuffer i = true) →
    ∃ t u : State, runOps c zs s = .next t ∧ runOps c ys s = .next u ∧ t.returns = u.returns

/-! ### Synchronization, packets, liveness -/

/-- A LONG after SHORTs from IDLE: with more than `SYNC_THRESHOLD` of them, at least 101 on this hardware, from any count,
the state is RECEIVING with SHORTCNT 0; with no more, from a count of 0, it is IDLE with SHORTCNT 0 (41_receive_fsm R125,
R133). -/
def Obligations.PreambleLengthDecidesSync : Prop :=
  ∀ (c : Params) (tss : List TsField) (last : TsField) (s : State), Accepted c → s.rxState = .idle →
    classesFrom c s.prevTs (tss ++ [last]) = List.replicate tss.length .short ++ [.long] →
    (c.syncThreshold < tss.length → ∃ t : State, runOps c (captures (tss ++ [last])) s = .next t ∧
      t.rxState = .receiving ∧ t.shortCnt = 0 ∧ t.indicator = true ∧ t.cursor = s.cursor) ∧
    (tss.length ≤ c.syncThreshold → s.shortCnt = 0 → ∃ t : State, runOps c (captures (tss ++ [last])) s = .next t ∧
      t.rxState = .idle ∧ t.shortCnt = 0)

/-- The decoder inverts the transmitter's encoding: at most `PKT_BITS` bits, 64 on this hardware, encoded from PENDING = 0
and captured straight after sync entry, are written in order, bit `j` at packet bit `j`, and nothing else is (42_bit_decoder
R156, R157; 20_memory R54). -/
def Obligations.ManchesterRoundTrip : Prop :=
  ∀ (c : Params) (bits : List Bool) (tss : List TsField) (s : State), Accepted c → s.rxState = .receiving →
    s.cursor = 0 → s.pending = false → s.half = false → bits.length ≤ c.pktBits →
    classesFrom c s.prevTs tss = encodeBits false bits →
    ∃ t : State, runOps c (captures tss) s = .next t ∧ t.rxState = .receiving ∧ t.cursor = bits.length ∧
      t.half = false ∧ t.pending = bits.getLastD false ∧
      ∀ k, k < c.pktBits → packetBit t k = bits.getD k (packetBit s k)

/-- Completion takes `PKT_BITS + 1` decoded bits, 65 on this hardware: after them the state is PACKET_RECEIVED with CURSOR
`PKT_BITS + 1`, the first `PKT_BITS` bits are the buffer, and the last is decoded into PENDING and HALF but written nowhere
(42_bit_decoder R155, 20_memory R53; the spec's decision D5). -/
def Obligations.PacketCompletesAtBit65 : Prop :=
  ∀ (c : Params) (bits : List Bool) (tss : List TsField) (s : State), Accepted c → s.rxState = .receiving →
    s.cursor = 0 → s.pending = false → s.half = false → bits.length = c.pktBits + 1 →
    classesFrom c s.prevTs tss = encodeBits false bits →
    ∃ t : State, runOps c (captures tss) s = .next t ∧ t.rxState = .packetReceived ∧ t.cursor = c.pktBits + 1 ∧
      t.half = false ∧ t.pending = bits.getLastD false ∧ ∀ k, k < c.pktBits → some (packetBit t k) = bits[k]?

/-- RECEIVING ends within `2 * (PKT_BITS + 1)` SHORT or LONG periods, 130 on this hardware, INVALID ones not counted
(41_receive_fsm R133). -/
def Obligations.ReceivingEndsWithin130Periods : Prop :=
  ∀ (c : Params) (tss : List TsField) (s : State), Accepted c → Reachable c s → s.rxState = .receiving →
    2 * (c.pktBits + 1) ≤ (classesFrom c s.prevTs tss).countP (fun cl => decide (cl ≠ .invalid)) →
    ∃ (n : Nat) (t : State), n ≤ tss.length ∧ runOps c (captures (tss.take n)) s = .next t ∧ t.rxState ≠ .receiving

/-- `BITS` expands to CAPTUREs whose classes are the encoding of the bits, at every `TU_PER_TICK = 4` configuration whose
timestamps hold the 250 ticks of a LONG (30_encoding R82, 42_bit_decoder R157), and leaves the assembler's timestamp and copy
of PENDING at the last of them. -/
def Obligations.AssemblerBitsAreTheEncoding : Prop :=
  ∀ (c : Params) (bs : List Bool) (a : AsmState), Accepted c → c.tuPerTick = 4 → 8 ≤ c.tsW →
    ∃ tss : List TsField, (asmLine c (.bits bs) a).1 = captures tss ∧
      classesFrom c a.t tss = encodeBits a.pending bs ∧
      (asmLine c (.bits bs) a).2.t = (tss.map (timestampOperand c)).getLastD a.t ∧
      (asmLine c (.bits bs) a).2.pending = bs.getLastD a.pending

/-! ### The port view -/

/-- A rising clock edge performs the operations R73 lists, in order (30_encoding R71, R73). -/
def Obligations.ClockEdgePerformsTheListedOperations : Prop :=
  ∀ (c : Params) (p : PortInputs c) (s : State), clockEdge c p s = runOps c (cycleOps p) s

/-- A reset and an edge in one cycle: the reset comes first, so the edge is acted on in IDLE, whatever the state was
(30_encoding R72, 70_reset R246; the spec's decision D12). -/
def Obligations.SameCycleResetComesBeforeTheEdge : Prop :=
  ∀ (c : Params) (p : PortInputs c) (s : State), Accepted c → Legal s → p.rst = false → p.rxReset = true →
    p.capValid = true → clockEdge c p s = .next { s with
      rxState := .idle, shortCnt := if captureClass c s.prevTs p.capTs.toNat = .short then 1 else 0, cursor := 0,
      pending := false, half := false, indicator := false, prevTs := p.capTs.toNat, edgeSel := !s.edgeSel }

/-- The 64-bit view is big-endian in arrival order: packet bit `k` is `pkt_data[63 - k]` (20_memory R51, R55). -/
def Obligations.PktDataIsBigEndian : Prop :=
  ∀ (s : State) (k : Nat), k < 64 → (pktData s).getLsbD (63 - k) = packetBit s k

/-- The output ports carry what the READ operations return (30_encoding R70, R73; 43_consumer_ops R170 to R173). -/
def Obligations.PortsCarryWhatReadsReturn : Prop :=
  ∀ (s : State) (idx : ByteIndex), Legal s →
    exec (.readByte idx) s = .next { s with returns := (portOutputs idx s).bufRdata :: s.returns } ∧
    exec .readStationId s = .next { s with returns := (portOutputs idx s).stationId :: s.returns } ∧
    exec .readPktType s = .next { s with returns := (portOutputs idx s).pktType.setWidth 8 :: s.returns } ∧
    exec .readStatus s = .next { s with returns :=
      (0#3 ++ (BitVec.ofBool (portOutputs idx s).edgeSel ++ (BitVec.ofBool (portOutputs idx s).indicator ++
        (BitVec.ofBool (portOutputs idx s).pktReady ++ (portOutputs idx s).rxState)))) :: s.returns }
end

