-- ==== Sys2Proof/Laws/State.lean ====
section
/-! SUPPORT. What each named update of the state leaves in each field, so that no later proof unfolds a record update.
The proofs are written `(rfl)`: `simp` then rewrites the condition of an `if` together with its decision procedure. -/

namespace Sys2Proof.Machine

@[simp] theorem setHalf_rxState (s : State) : (setHalf s).rxState = s.rxState := (rfl)
@[simp] theorem setHalf_shortCnt (s : State) : (setHalf s).shortCnt = s.shortCnt := (rfl)
@[simp] theorem setHalf_pending (s : State) : (setHalf s).pending = s.pending := (rfl)
@[simp] theorem setHalf_half (s : State) : (setHalf s).half = true := (rfl)
@[simp] theorem setHalf_cursor (s : State) : (setHalf s).cursor = s.cursor := (rfl)
@[simp] theorem setHalf_indicator (s : State) : (setHalf s).indicator = s.indicator := (rfl)
@[simp] theorem setHalf_prevTs (s : State) : (setHalf s).prevTs = s.prevTs := (rfl)
@[simp] theorem setHalf_edgeSel (s : State) : (setHalf s).edgeSel = s.edgeSel := (rfl)
@[simp] theorem setHalf_mem (s : State) : (setHalf s).mem = s.mem := (rfl)
@[simp] theorem setHalf_draws (s : State) : (setHalf s).draws = s.draws := (rfl)
@[simp] theorem setHalf_input (s : State) : (setHalf s).input = s.input := (rfl)
@[simp] theorem setHalf_returns (s : State) : (setHalf s).returns = s.returns := (rfl)

@[simp] theorem clearHalf_rxState (s : State) : (clearHalf s).rxState = s.rxState := (rfl)
@[simp] theorem clearHalf_shortCnt (s : State) : (clearHalf s).shortCnt = s.shortCnt := (rfl)
@[simp] theorem clearHalf_pending (s : State) : (clearHalf s).pending = s.pending := (rfl)
@[simp] theorem clearHalf_half (s : State) : (clearHalf s).half = false := (rfl)
@[simp] theorem clearHalf_cursor (s : State) : (clearHalf s).cursor = s.cursor := (rfl)
@[simp] theorem clearHalf_indicator (s : State) : (clearHalf s).indicator = s.indicator := (rfl)
@[simp] theorem clearHalf_prevTs (s : State) : (clearHalf s).prevTs = s.prevTs := (rfl)
@[simp] theorem clearHalf_edgeSel (s : State) : (clearHalf s).edgeSel = s.edgeSel := (rfl)
@[simp] theorem clearHalf_mem (s : State) : (clearHalf s).mem = s.mem := (rfl)
@[simp] theorem clearHalf_draws (s : State) : (clearHalf s).draws = s.draws := (rfl)
@[simp] theorem clearHalf_input (s : State) : (clearHalf s).input = s.input := (rfl)
@[simp] theorem clearHalf_returns (s : State) : (clearHalf s).returns = s.returns := (rfl)

@[simp] theorem flipPending_rxState (s : State) : (flipPending s).rxState = s.rxState := (rfl)
@[simp] theorem flipPending_shortCnt (s : State) : (flipPending s).shortCnt = s.shortCnt := (rfl)
@[simp] theorem flipPending_pending (s : State) : (flipPending s).pending = !s.pending := (rfl)
@[simp] theorem flipPending_half (s : State) : (flipPending s).half = s.half := (rfl)
@[simp] theorem flipPending_cursor (s : State) : (flipPending s).cursor = s.cursor := (rfl)
@[simp] theorem flipPending_indicator (s : State) : (flipPending s).indicator = s.indicator := (rfl)
@[simp] theorem flipPending_prevTs (s : State) : (flipPending s).prevTs = s.prevTs := (rfl)
@[simp] theorem flipPending_edgeSel (s : State) : (flipPending s).edgeSel = s.edgeSel := (rfl)
@[simp] theorem flipPending_mem (s : State) : (flipPending s).mem = s.mem := (rfl)
@[simp] theorem flipPending_draws (s : State) : (flipPending s).draws = s.draws := (rfl)
@[simp] theorem flipPending_input (s : State) : (flipPending s).input = s.input := (rfl)
@[simp] theorem flipPending_returns (s : State) : (flipPending s).returns = s.returns := (rfl)

@[simp] theorem writeByte_rxState (s : State) (i : Nat) (v : Byte) : (writeByte s i v).rxState = s.rxState := (rfl)
@[simp] theorem writeByte_shortCnt (s : State) (i : Nat) (v : Byte) : (writeByte s i v).shortCnt = s.shortCnt := (rfl)
@[simp] theorem writeByte_pending (s : State) (i : Nat) (v : Byte) : (writeByte s i v).pending = s.pending := (rfl)
@[simp] theorem writeByte_half (s : State) (i : Nat) (v : Byte) : (writeByte s i v).half = s.half := (rfl)
@[simp] theorem writeByte_cursor (s : State) (i : Nat) (v : Byte) : (writeByte s i v).cursor = s.cursor := (rfl)
@[simp] theorem writeByte_indicator (s : State) (i : Nat) (v : Byte) : (writeByte s i v).indicator = s.indicator := (rfl)
@[simp] theorem writeByte_prevTs (s : State) (i : Nat) (v : Byte) : (writeByte s i v).prevTs = s.prevTs := (rfl)
@[simp] theorem writeByte_edgeSel (s : State) (i : Nat) (v : Byte) : (writeByte s i v).edgeSel = s.edgeSel := (rfl)
@[simp] theorem writeByte_mem (s : State) (i : Nat) (v : Byte) : (writeByte s i v).mem = memWrite s.draws s.mem i v := (rfl)
@[simp] theorem writeByte_draws (s : State) (i : Nat) (v : Byte) : (writeByte s i v).draws = s.draws := (rfl)
@[simp] theorem writeByte_input (s : State) (i : Nat) (v : Byte) : (writeByte s i v).input = s.input := (rfl)
@[simp] theorem writeByte_returns (s : State) (i : Nat) (v : Byte) : (writeByte s i v).returns = s.returns := (rfl)

@[simp] theorem advanceCursor_rxState (c : Params) (s : State) : (advanceCursor c s).rxState = s.rxState := (rfl)
@[simp] theorem advanceCursor_shortCnt (c : Params) (s : State) : (advanceCursor c s).shortCnt = s.shortCnt := (rfl)
@[simp] theorem advanceCursor_pending (c : Params) (s : State) : (advanceCursor c s).pending = s.pending := (rfl)
@[simp] theorem advanceCursor_half (c : Params) (s : State) : (advanceCursor c s).half = s.half := (rfl)
@[simp] theorem advanceCursor_cursor (c : Params) (s : State) : (advanceCursor c s).cursor =
    (s.cursor + 1) % 2 ^ c.curW := (rfl)
@[simp] theorem advanceCursor_indicator (c : Params) (s : State) : (advanceCursor c s).indicator = s.indicator := (rfl)
@[simp] theorem advanceCursor_prevTs (c : Params) (s : State) : (advanceCursor c s).prevTs = s.prevTs := (rfl)
@[simp] theorem advanceCursor_edgeSel (c : Params) (s : State) : (advanceCursor c s).edgeSel = s.edgeSel := (rfl)
@[simp] theorem advanceCursor_mem (c : Params) (s : State) : (advanceCursor c s).mem = s.mem := (rfl)
@[simp] theorem advanceCursor_draws (c : Params) (s : State) : (advanceCursor c s).draws = s.draws := (rfl)
@[simp] theorem advanceCursor_input (c : Params) (s : State) : (advanceCursor c s).input = s.input := (rfl)
@[simp] theorem advanceCursor_returns (c : Params) (s : State) : (advanceCursor c s).returns = s.returns := (rfl)

@[simp] theorem completePacket_rxState (s : State) : (completePacket s).rxState = .packetReceived := (rfl)
@[simp] theorem completePacket_shortCnt (s : State) : (completePacket s).shortCnt = s.shortCnt := (rfl)
@[simp] theorem completePacket_pending (s : State) : (completePacket s).pending = s.pending := (rfl)
@[simp] theorem completePacket_half (s : State) : (completePacket s).half = s.half := (rfl)
@[simp] theorem completePacket_cursor (s : State) : (completePacket s).cursor = s.cursor := (rfl)
@[simp] theorem completePacket_indicator (s : State) : (completePacket s).indicator = s.indicator := (rfl)
@[simp] theorem completePacket_prevTs (s : State) : (completePacket s).prevTs = s.prevTs := (rfl)
@[simp] theorem completePacket_edgeSel (s : State) : (completePacket s).edgeSel = s.edgeSel := (rfl)
@[simp] theorem completePacket_mem (s : State) : (completePacket s).mem = s.mem := (rfl)
@[simp] theorem completePacket_draws (s : State) : (completePacket s).draws = s.draws := (rfl)
@[simp] theorem completePacket_input (s : State) : (completePacket s).input = s.input := (rfl)
@[simp] theorem completePacket_returns (s : State) : (completePacket s).returns = s.returns := (rfl)

@[simp] theorem commonUpdate_rxState (s : State) (ts : Nat) : (commonUpdate s ts).rxState = s.rxState := (rfl)
@[simp] theorem commonUpdate_shortCnt (s : State) (ts : Nat) : (commonUpdate s ts).shortCnt = s.shortCnt := (rfl)
@[simp] theorem commonUpdate_pending (s : State) (ts : Nat) : (commonUpdate s ts).pending = s.pending := (rfl)
@[simp] theorem commonUpdate_half (s : State) (ts : Nat) : (commonUpdate s ts).half = s.half := (rfl)
@[simp] theorem commonUpdate_cursor (s : State) (ts : Nat) : (commonUpdate s ts).cursor = s.cursor := (rfl)
@[simp] theorem commonUpdate_indicator (s : State) (ts : Nat) : (commonUpdate s ts).indicator = s.indicator := (rfl)
@[simp] theorem commonUpdate_prevTs (s : State) (ts : Nat) : (commonUpdate s ts).prevTs = ts := (rfl)
@[simp] theorem commonUpdate_edgeSel (s : State) (ts : Nat) : (commonUpdate s ts).edgeSel = !s.edgeSel := (rfl)
@[simp] theorem commonUpdate_mem (s : State) (ts : Nat) : (commonUpdate s ts).mem = s.mem := (rfl)
@[simp] theorem commonUpdate_draws (s : State) (ts : Nat) : (commonUpdate s ts).draws = s.draws := (rfl)
@[simp] theorem commonUpdate_input (s : State) (ts : Nat) : (commonUpdate s ts).input = s.input := (rfl)
@[simp] theorem commonUpdate_returns (s : State) (ts : Nat) : (commonUpdate s ts).returns = s.returns := (rfl)

@[simp] theorem enterReceiving_rxState (s : State) : (enterReceiving s).rxState = .receiving := (rfl)
@[simp] theorem enterReceiving_shortCnt (s : State) : (enterReceiving s).shortCnt = 0 := (rfl)
@[simp] theorem enterReceiving_pending (s : State) : (enterReceiving s).pending = s.pending := (rfl)
@[simp] theorem enterReceiving_half (s : State) : (enterReceiving s).half = s.half := (rfl)
@[simp] theorem enterReceiving_cursor (s : State) : (enterReceiving s).cursor = s.cursor := (rfl)
@[simp] theorem enterReceiving_indicator (s : State) : (enterReceiving s).indicator = true := (rfl)
@[simp] theorem enterReceiving_prevTs (s : State) : (enterReceiving s).prevTs = s.prevTs := (rfl)
@[simp] theorem enterReceiving_edgeSel (s : State) : (enterReceiving s).edgeSel = s.edgeSel := (rfl)
@[simp] theorem enterReceiving_mem (s : State) : (enterReceiving s).mem = s.mem := (rfl)
@[simp] theorem enterReceiving_draws (s : State) : (enterReceiving s).draws = s.draws := (rfl)
@[simp] theorem enterReceiving_input (s : State) : (enterReceiving s).input = s.input := (rfl)
@[simp] theorem enterReceiving_returns (s : State) : (enterReceiving s).returns = s.returns := (rfl)

@[simp] theorem fullReset_rxState (s : State) : (fullReset s).rxState = .idle := (rfl)
@[simp] theorem fullReset_shortCnt (s : State) : (fullReset s).shortCnt = 0 := (rfl)
@[simp] theorem fullReset_pending (s : State) : (fullReset s).pending = false := (rfl)
@[simp] theorem fullReset_half (s : State) : (fullReset s).half = false := (rfl)
@[simp] theorem fullReset_cursor (s : State) : (fullReset s).cursor = 0 := (rfl)
@[simp] theorem fullReset_indicator (s : State) : (fullReset s).indicator = false := (rfl)
@[simp] theorem fullReset_prevTs (s : State) : (fullReset s).prevTs = s.prevTs := (rfl)
@[simp] theorem fullReset_edgeSel (s : State) : (fullReset s).edgeSel = s.edgeSel := (rfl)
@[simp] theorem fullReset_mem (s : State) : (fullReset s).mem = s.mem := (rfl)
@[simp] theorem fullReset_draws (s : State) : (fullReset s).draws = s.draws := (rfl)
@[simp] theorem fullReset_input (s : State) : (fullReset s).input = s.input := (rfl)
@[simp] theorem fullReset_returns (s : State) : (fullReset s).returns = s.returns := (rfl)

@[simp] theorem powerOn_rxState (c : Params) (s : State) : (powerOn c s).rxState = .idle := (rfl)
@[simp] theorem powerOn_shortCnt (c : Params) (s : State) : (powerOn c s).shortCnt = 0 := (rfl)
@[simp] theorem powerOn_pending (c : Params) (s : State) : (powerOn c s).pending = false := (rfl)
@[simp] theorem powerOn_half (c : Params) (s : State) : (powerOn c s).half = false := (rfl)
@[simp] theorem powerOn_cursor (c : Params) (s : State) : (powerOn c s).cursor = 0 := (rfl)
@[simp] theorem powerOn_indicator (c : Params) (s : State) : (powerOn c s).indicator = false := (rfl)
@[simp] theorem powerOn_prevTs (c : Params) (s : State) : (powerOn c s).prevTs = 0 := (rfl)
@[simp] theorem powerOn_edgeSel (c : Params) (s : State) : (powerOn c s).edgeSel = c.edgeSelInit := (rfl)
@[simp] theorem powerOn_mem (c : Params) (s : State) : (powerOn c s).mem = [] := (rfl)
@[simp] theorem powerOn_draws (c : Params) (s : State) : (powerOn c s).draws = s.draws + 1 := (rfl)
@[simp] theorem powerOn_input (c : Params) (s : State) : (powerOn c s).input = s.input := (rfl)
@[simp] theorem powerOn_returns (c : Params) (s : State) : (powerOn c s).returns = s.returns := (rfl)

@[simp] theorem giveBack_rxState (s : State) (v : Byte) : (giveBack s v).rxState = s.rxState := (rfl)
@[simp] theorem giveBack_shortCnt (s : State) (v : Byte) : (giveBack s v).shortCnt = s.shortCnt := (rfl)
@[simp] theorem giveBack_pending (s : State) (v : Byte) : (giveBack s v).pending = s.pending := (rfl)
@[simp] theorem giveBack_half (s : State) (v : Byte) : (giveBack s v).half = s.half := (rfl)
@[simp] theorem giveBack_cursor (s : State) (v : Byte) : (giveBack s v).cursor = s.cursor := (rfl)
@[simp] theorem giveBack_indicator (s : State) (v : Byte) : (giveBack s v).indicator = s.indicator := (rfl)
@[simp] theorem giveBack_prevTs (s : State) (v : Byte) : (giveBack s v).prevTs = s.prevTs := (rfl)
@[simp] theorem giveBack_edgeSel (s : State) (v : Byte) : (giveBack s v).edgeSel = s.edgeSel := (rfl)
@[simp] theorem giveBack_mem (s : State) (v : Byte) : (giveBack s v).mem = s.mem := (rfl)
@[simp] theorem giveBack_draws (s : State) (v : Byte) : (giveBack s v).draws = s.draws := (rfl)
@[simp] theorem giveBack_input (s : State) (v : Byte) : (giveBack s v).input = s.input := (rfl)
@[simp] theorem giveBack_returns (s : State) (v : Byte) : (giveBack s v).returns = v :: s.returns := (rfl)

@[simp] theorem presentWord_rxState (s : State) (w : OpWord) : (presentWord s w).rxState = s.rxState := (rfl)
@[simp] theorem presentWord_shortCnt (s : State) (w : OpWord) : (presentWord s w).shortCnt = s.shortCnt := (rfl)
@[simp] theorem presentWord_pending (s : State) (w : OpWord) : (presentWord s w).pending = s.pending := (rfl)
@[simp] theorem presentWord_half (s : State) (w : OpWord) : (presentWord s w).half = s.half := (rfl)
@[simp] theorem presentWord_cursor (s : State) (w : OpWord) : (presentWord s w).cursor = s.cursor := (rfl)
@[simp] theorem presentWord_indicator (s : State) (w : OpWord) : (presentWord s w).indicator = s.indicator := (rfl)
@[simp] theorem presentWord_prevTs (s : State) (w : OpWord) : (presentWord s w).prevTs = s.prevTs := (rfl)
@[simp] theorem presentWord_edgeSel (s : State) (w : OpWord) : (presentWord s w).edgeSel = s.edgeSel := (rfl)
@[simp] theorem presentWord_mem (s : State) (w : OpWord) : (presentWord s w).mem = s.mem := (rfl)
@[simp] theorem presentWord_draws (s : State) (w : OpWord) : (presentWord s w).draws = s.draws := (rfl)
@[simp] theorem presentWord_input (s : State) (w : OpWord) : (presentWord s w).input = w :: s.input := (rfl)
@[simp] theorem presentWord_returns (s : State) (w : OpWord) : (presentWord s w).returns = s.returns := (rfl)

@[simp] theorem bitWrite_rxState (c : Params) (s : State) (k : Nat) (b : Bool) : (bitWrite c s k b).rxState = s.rxState := by
  unfold bitWrite; split <;> rfl
@[simp] theorem bitWrite_shortCnt (c : Params) (s : State) (k : Nat) (b : Bool) : (bitWrite c s k b).shortCnt = s.shortCnt := by
  unfold bitWrite; split <;> rfl
@[simp] theorem bitWrite_pending (c : Params) (s : State) (k : Nat) (b : Bool) : (bitWrite c s k b).pending = s.pending := by
  unfold bitWrite; split <;> rfl
@[simp] theorem bitWrite_half (c : Params) (s : State) (k : Nat) (b : Bool) : (bitWrite c s k b).half = s.half := by
  unfold bitWrite; split <;> rfl
@[simp] theorem bitWrite_cursor (c : Params) (s : State) (k : Nat) (b : Bool) : (bitWrite c s k b).cursor = s.cursor := by
  unfold bitWrite; split <;> rfl
@[simp] theorem bitWrite_indicator (c : Params) (s : State) (k : Nat) (b : Bool) : (bitWrite c s k b).indicator = s.indicator := by
  unfold bitWrite; split <;> rfl
@[simp] theorem bitWrite_prevTs (c : Params) (s : State) (k : Nat) (b : Bool) : (bitWrite c s k b).prevTs = s.prevTs := by
  unfold bitWrite; split <;> rfl
@[simp] theorem bitWrite_edgeSel (c : Params) (s : State) (k : Nat) (b : Bool) : (bitWrite c s k b).edgeSel = s.edgeSel := by
  unfold bitWrite; split <;> rfl
@[simp] theorem bitWrite_draws (c : Params) (s : State) (k : Nat) (b : Bool) : (bitWrite c s k b).draws = s.draws := by
  unfold bitWrite; split <;> rfl
@[simp] theorem bitWrite_input (c : Params) (s : State) (k : Nat) (b : Bool) : (bitWrite c s k b).input = s.input := by
  unfold bitWrite; split <;> rfl
@[simp] theorem bitWrite_returns (c : Params) (s : State) (k : Nat) (b : Bool) : (bitWrite c s k b).returns = s.returns := by
  unfold bitWrite; split <;> rfl

@[simp] theorem countShort_rxState (c : Params) (s : State) : (countShort c s).rxState = s.rxState := by
  unfold countShort; split <;> rfl
@[simp] theorem countShort_pending (c : Params) (s : State) : (countShort c s).pending = s.pending := by
  unfold countShort; split <;> rfl
@[simp] theorem countShort_half (c : Params) (s : State) : (countShort c s).half = s.half := by
  unfold countShort; split <;> rfl
@[simp] theorem countShort_cursor (c : Params) (s : State) : (countShort c s).cursor = s.cursor := by
  unfold countShort; split <;> rfl
@[simp] theorem countShort_indicator (c : Params) (s : State) : (countShort c s).indicator = s.indicator := by
  unfold countShort; split <;> rfl
@[simp] theorem countShort_prevTs (c : Params) (s : State) : (countShort c s).prevTs = s.prevTs := by
  unfold countShort; split <;> rfl
@[simp] theorem countShort_edgeSel (c : Params) (s : State) : (countShort c s).edgeSel = s.edgeSel := by
  unfold countShort; split <;> rfl
@[simp] theorem countShort_mem (c : Params) (s : State) : (countShort c s).mem = s.mem := by
  unfold countShort; split <;> rfl
@[simp] theorem countShort_draws (c : Params) (s : State) : (countShort c s).draws = s.draws := by
  unfold countShort; split <;> rfl
@[simp] theorem countShort_input (c : Params) (s : State) : (countShort c s).input = s.input := by
  unfold countShort; split <;> rfl
@[simp] theorem countShort_returns (c : Params) (s : State) : (countShort c s).returns = s.returns := by
  unfold countShort; split <;> rfl

@[simp] theorem checkComplete_shortCnt (c : Params) (s : State) : (checkComplete c s).shortCnt = s.shortCnt := by
  unfold checkComplete; split <;> rfl
@[simp] theorem checkComplete_pending (c : Params) (s : State) : (checkComplete c s).pending = s.pending := by
  unfold checkComplete; split <;> rfl
@[simp] theorem checkComplete_half (c : Params) (s : State) : (checkComplete c s).half = s.half := by
  unfold checkComplete; split <;> rfl
@[simp] theorem checkComplete_cursor (c : Params) (s : State) : (checkComplete c s).cursor = s.cursor := by
  unfold checkComplete; split <;> rfl
@[simp] theorem checkComplete_indicator (c : Params) (s : State) : (checkComplete c s).indicator = s.indicator := by
  unfold checkComplete; split <;> rfl
@[simp] theorem checkComplete_prevTs (c : Params) (s : State) : (checkComplete c s).prevTs = s.prevTs := by
  unfold checkComplete; split <;> rfl
@[simp] theorem checkComplete_edgeSel (c : Params) (s : State) : (checkComplete c s).edgeSel = s.edgeSel := by
  unfold checkComplete; split <;> rfl
@[simp] theorem checkComplete_mem (c : Params) (s : State) : (checkComplete c s).mem = s.mem := by
  unfold checkComplete; split <;> rfl
@[simp] theorem checkComplete_draws (c : Params) (s : State) : (checkComplete c s).draws = s.draws := by
  unfold checkComplete; split <;> rfl
@[simp] theorem checkComplete_input (c : Params) (s : State) : (checkComplete c s).input = s.input := by
  unfold checkComplete; split <;> rfl
@[simp] theorem checkComplete_returns (c : Params) (s : State) : (checkComplete c s).returns = s.returns := by
  unfold checkComplete; split <;> rfl

end Sys2Proof.Machine
end

