-- ==== Sys2Proof/Laws/Memory.lean ====
section
/-! SUPPORT. The packet buffer's laws: a read after a write, the bytes and bits a write leaves alone, and that every
memory operation keeps the canonical form. -/

namespace Sys2Proof.Machine

/-! ### Bytes -/

theorem memRead_memErase_same (draw : Nat) (m : Memory) (a : Nat) :
    memRead draw (memErase m a) a = memUnlisted draw a := by
  induction m with
  | nil => rfl
  | cons c m ih =>
    obtain ⟨b, v⟩ := c
    unfold memErase
    split
    · exact ih
    · rename_i hb
      simpa [memRead, hb] using ih

theorem memRead_memErase_other (draw : Nat) (m : Memory) {a a' : Nat} (h : a' ≠ a) :
    memRead draw (memErase m a) a' = memRead draw m a' := by
  induction m with
  | nil => rfl
  | cons c m ih =>
    obtain ⟨b, v⟩ := c
    unfold memErase
    split
    · rename_i hb
      subst hb
      simpa [memRead, h.symm] using ih
    · simp only [memRead, ih]

theorem memRead_memInsert_same (draw : Nat) (m : Memory) (a : Nat) (v : Byte) (h : ∀ c ∈ m, c.1 ≠ a) :
    memRead draw (memInsert m a v) a = v := by
  induction m with
  | nil => simp [memInsert, memRead]
  | cons c m ih =>
    obtain ⟨b, w⟩ := c
    unfold memInsert
    split
    · simp [memRead]
    · have hb : b ≠ a := h (b, w) (by simp)
      simpa [memRead, hb] using ih fun c hc => h c (by simp [hc])

theorem memRead_memInsert_other (draw : Nat) (m : Memory) {a a' : Nat} (v : Byte) (h : a' ≠ a) :
    memRead draw (memInsert m a v) a' = memRead draw m a' := by
  induction m with
  | nil => simp [memInsert, memRead, h.symm]
  | cons c m ih =>
    obtain ⟨b, w⟩ := c
    unfold memInsert
    split
    · simp [memRead, h.symm]
    · simp only [memRead, ih]

theorem memErase_sublist (m : Memory) (a : Nat) : (memErase m a).Sublist m := by
  induction m with
  | nil => exact .slnil
  | cons c m ih =>
    obtain ⟨b, v⟩ := c
    unfold memErase
    split
    · exact ih.cons _
    · exact ih.cons_cons _

theorem memErase_address (m : Memory) (a : Nat) : ∀ c ∈ memErase m a, c.1 ≠ a := by
  induction m with
  | nil => simp [memErase]
  | cons c m ih =>
    obtain ⟨b, v⟩ := c
    unfold memErase
    split
    · exact ih
    · rename_i hb
      simpa [hb] using ih

theorem mem_memInsert {m : Memory} {a : Nat} {v : Byte} {c : Host.Cell} (h : c ∈ memInsert m a v) :
    c = (a, v) ∨ c ∈ m := by
  induction m with
  | nil => simpa [memInsert] using h
  | cons d m ih =>
    obtain ⟨b, w⟩ := d
    unfold memInsert at h
    split at h
    · simpa using h
    · rcases List.mem_cons.1 h with h | h
      · exact .inr (by simp [h])
      · rcases ih h with h | h
        · exact .inl h
        · exact .inr (by simp [h])

theorem memInsert_pairwise {m : Memory} {a : Nat} {v : Byte} (hm : m.Pairwise (fun x y => x.1 < y.1))
    (ha : ∀ c ∈ m, c.1 ≠ a) : (memInsert m a v).Pairwise (fun x y => x.1 < y.1) := by
  induction m with
  | nil => simp [memInsert]
  | cons c m ih =>
    obtain ⟨b, w⟩ := c
    obtain ⟨hb, hm'⟩ := List.pairwise_cons.1 hm
    have hba : b ≠ a := ha (b, w) (by simp)
    unfold memInsert
    split
    · rename_i hlt
      refine List.pairwise_cons.2 ⟨fun d hd => ?_, hm⟩
      rcases List.mem_cons.1 hd with rfl | hd
      · exact hlt
      · exact Nat.lt_trans hlt (hb d hd)
    · rename_i hlt
      refine List.pairwise_cons.2 ⟨fun d hd => ?_, ih hm' fun c hc => ha c (by simp [hc])⟩
      rcases mem_memInsert hd with rfl | hd
      · show b < a; omega
      · exact hb d hd

/-- A read of the byte just written gives it. -/
theorem memRead_memWrite_same (draw : Nat) (m : Memory) (a : Nat) (v : Byte) :
    memRead draw (memWrite draw m a v) a = v := by
  unfold memWrite
  split
  · rename_i hv; rw [memRead_memErase_same, hv]
  · exact memRead_memInsert_same draw _ a v (memErase_address m a)

/-- A write leaves every other byte alone. -/
theorem memRead_memWrite_other (draw : Nat) (m : Memory) {a a' : Nat} (v : Byte) (h : a' ≠ a) :
    memRead draw (memWrite draw m a v) a' = memRead draw m a' := by
  unfold memWrite
  split
  · exact memRead_memErase_other draw m h
  · rw [memRead_memInsert_other draw _ v h, memRead_memErase_other draw m h]

/-- Every write keeps the canonical form. -/
theorem memWrite_wf {size draw : Nat} {m : Memory} {a : Nat} {v : Byte} (hm : Memory.wf size draw m)
    (ha : a < size) : Memory.wf size draw (memWrite draw m a v) := by
  have hs := memErase_sublist m a
  have herase : Memory.wf size draw (memErase m a) := ⟨hm.1.sublist hs, fun c hc => hm.2 c (hs.subset hc)⟩
  unfold memWrite
  split
  · exact herase
  · rename_i hv
    refine ⟨memInsert_pairwise herase.1 (memErase_address m a), fun c hc => ?_⟩
    rcases mem_memInsert hc with rfl | hc
    · exact ⟨ha, hv⟩
    · exact herase.2 c hc

/-- The memory with nothing listed is canonical. -/
theorem nil_wf (size draw : Nat) : Memory.wf size draw [] := ⟨List.Pairwise.nil, by simp⟩

/-- The memory of the reset state is canonical. -/
theorem reset_mem_wf (size : Nat) : Memory.wf size State.reset.draws State.reset.mem := nil_wf _ _

/-! ### The buffer in a state -/

@[simp] theorem bufByte_writeByte_same (s : State) (i : Nat) (v : Byte) : bufByte (writeByte s i v) i = v :=
  memRead_memWrite_same _ _ _ _

theorem bufByte_writeByte_other (s : State) {i j : Nat} (v : Byte) (h : j ≠ i) :
    bufByte (writeByte s i v) j = bufByte s j :=
  memRead_memWrite_other _ _ _ h

/-- BUF depends on the memory and the draw alone. -/
theorem bufByte_congr {s t : State} (hd : s.draws = t.draws) (hm : s.mem = t.mem) (i : Nat) :
    bufByte s i = bufByte t i := by
  unfold bufByte; rw [hd, hm]

theorem packetBit_congr {s t : State} (hd : s.draws = t.draws) (hm : s.mem = t.mem) (k : Nat) :
    packetBit s k = packetBit t k := by
  unfold packetBit; rw [bufByte_congr hd hm]

/-! ### Bits -/

/-- Setting the bit at one offset of a byte gives that bit, and leaves the other seven. -/
theorem offsetBit_withOffsetBit : ∀ (old : Byte) (off off' : Fin 8) (b : Bool),
    offsetBit (withOffsetBit old off b) off' = if off' = off then b else offsetBit old off' := by
  decide +kernel

/-- Packet bit `j` after `BitWrite(k, b)` (20_memory R53): only the addressed bit changes, and none for `k >= PKT_BITS`. -/
theorem packetBit_bitWrite (c : Params) (s : State) (k : Nat) (b : Bool) (j : Nat) :
    packetBit (bitWrite c s k b) j = if k < c.pktBits ∧ j = k then b else packetBit s j := by
  unfold bitWrite
  split
  case isFalse h => simp [h]
  case isTrue h =>
    have ho (n : Nat) : n % 8 < 8 := Nat.mod_lt _ (by decide)
    have hbit := offsetBit_withOffsetBit (bufByte s (k / 8)) ⟨k % 8, ho _⟩ ⟨j % 8, ho _⟩ b
    simp only [Fin.mk.injEq] at hbit
    simp only [packetBit, byteOfBit, offsetOfBit, h, true_and]
    by_cases hb : j / 8 = k / 8
    · rw [hb, bufByte_writeByte_same, hbit]
      have : (j % 8 = k % 8) ↔ j = k := by omega
      simp only [this]
    · rw [bufByte_writeByte_other _ _ hb, if_neg (fun hj => hb (by rw [hj]))]

/-- The memory `BitWrite` leaves. -/
theorem bitWrite_mem (c : Params) (s : State) (k : Nat) (b : Bool) :
    (bitWrite c s k b).mem = if k < c.pktBits then
      memWrite s.draws s.mem (byteOfBit k)
        (withOffsetBit (memRead s.draws s.mem (byteOfBit k)) (offsetOfBit k) b) else s.mem := by
  unfold bitWrite; split <;> rfl

/-- A byte `BitWrite` does not address keeps its value (20_memory R53). -/
theorem bufByte_bitWrite_other (c : Params) (s : State) (k : Nat) (b : Bool) {i : Nat}
    (h : k < c.pktBits → i ≠ k / 8) : bufByte (bitWrite c s k b) i = bufByte s i := by
  unfold bitWrite
  split
  · exact bufByte_writeByte_other _ _ (h ‹_›)
  · rfl

/-- `BitWrite` keeps the canonical form. -/
theorem bitWrite_wf {c : Params} {s : State} {k : Nat} {b : Bool} (hc : c.pktBits = 8 * c.pktBytes)
    (h : Memory.wf c.pktBytes s.draws s.mem) : Memory.wf c.pktBytes (bitWrite c s k b).draws (bitWrite c s k b).mem := by
  rw [bitWrite_draws]
  unfold bitWrite
  split
  · exact memWrite_wf h (by unfold byteOfBit; omega)
  · exact h

/-- Two states whose packet bits agree hold the same bytes. -/
theorem offsetBit_ext : ∀ {v w : Byte}, (∀ off, off < 8 → offsetBit v off = offsetBit w off) → v = w := by
  intro v w h
  refine BitVec.eq_of_getLsbD_eq fun i hi => ?_
  have := h (7 - i) (by omega)
  unfold offsetBit at this
  rwa [show 7 - (7 - i) = i by omega] at this

end Sys2Proof.Machine
end

