-- ==== Sys2Proof/Laws/Effects.lean ====
section
/-! SUPPORT. What one operation can do: the shared operations' specifications, the inversion of `exec`, and runs. -/

namespace Sys2Proof.Machine

/-! ### Parameters -/

@[simp] theorem hw_tuPerTick : hw.tuPerTick = 4 := (rfl)
@[simp] theorem hw_syncThreshold : hw.syncThreshold = 100 := (rfl)
@[simp] theorem hw_pktBits : hw.pktBits = 64 := (rfl)
@[simp] theorem hw_pktBytes : hw.pktBytes = 8 := (rfl)
@[simp] theorem hw_tsW : hw.tsW = 16 := (rfl)
@[simp] theorem hw_cntW : hw.cntW = 8 := (rfl)
@[simp] theorem hw_curW : hw.curW = 7 := (rfl)
@[simp] theorem hw_edgeSelInit : hw.edgeSelInit = Config.edgeSelInit := (rfl)

/-! ### The three outcomes of `exec` -/

theorem whenLegal_of_legal {s : State} (h : Legal s) (t : State) : whenLegal s t = .next t := if_neg h

theorem whenLegal_next {s t u : State} (h : whenLegal s t = .next u) : Legal s ∧ u = t := by
  unfold whenLegal at h
  split at h
  · cases h
  · exact ⟨‹_›, by injection h with h; exact h.symm⟩

theorem exec_eq (i : Instr) (s : State) : exec i s = whenLegal s (effect hw i s) := by
  cases i <;> rfl

theorem accepted_hw : Accepted hw := by decide

/-- What R7 asks of an accepted configuration. -/
theorem accepted_iff (c : Params) : Accepted c ↔
    (c.shortMin ≤ c.shortMax ∧ c.shortMax < c.longMin ∧ c.longMin ≤ c.longMax ∧ c.syncThreshold < 2 ^ c.cntW - 1 ∧
      c.pktBits = 8 * c.pktBytes ∧ c.pktBits + 1 < 2 ^ c.curW ∧ 1 ≤ c.tsW ∧ c.tsW ≤ 28 ∧ 1 ≤ c.tuPerTick) ∧
    c.shortMin + c.shortMax = 2 * 500 ∧ c.longMin + c.longMax = 2 * 1000 := by
  simp [Accepted, paramsAccepted, paramsWellFormed, paramsSymmetric, and_assoc]

/-- An accepted configuration refuses no operation for its own sake. -/
theorem execConfigured_of_accepted {c : Params} (h : Accepted c) (i : Instr) (s : State) :
    execConfigured c i s = whenLegal s (effect c i s) := by
  have h' := Bool.and_eq_true_iff.1 h
  simp [execConfigured, h'.1, h'.2]

theorem execConfigured_hw (i : Instr) (s : State) : execConfigured hw i s = exec i s := by
  rw [execConfigured_of_accepted accepted_hw, exec_eq]

theorem execConfigured_of_legal {c : Params} (hc : Accepted c) {s : State} (h : Legal s) (i : Instr) :
    execConfigured c i s = .next (effect c i s) := by
  rw [execConfigured_of_accepted hc, whenLegal_of_legal h]

/-- All an operation can do at any configuration: in a legal receiver state it has its effect. -/
theorem execConfigured_next_cases {c : Params} {i : Instr} {s t : State} (h : execConfigured c i s = .next t) :
    Accepted c ∧ Legal s ∧ t = effect c i s := by
  unfold execConfigured at h
  split at h
  · cases h
  · split at h
    · cases h
    · rename_i h1 h2
      exact ⟨Bool.and_eq_true_iff.2 ⟨Decidable.not_not.1 h1, Decidable.not_not.1 h2⟩, whenLegal_next h⟩

/-- All an operation can do: in a legal receiver state it has its effect. -/
theorem exec_next_cases {i : Instr} {s t : State} (h : exec i s = .next t) : Legal s ∧ t = effect hw i s :=
  whenLegal_next (exec_eq i s ▸ h)

theorem exec_of_legal {s : State} (h : Legal s) (i : Instr) : exec i s = .next (effect hw i s) := by
  rw [exec_eq, whenLegal_of_legal h]

/-! ### Emit, the completion check and the counter -/

theorem countShort_shortCnt (c : Params) (s : State) :
    (countShort c s).shortCnt = if s.shortCnt < 2 ^ c.cntW - 1 then s.shortCnt + 1 else s.shortCnt := by
  unfold countShort; split <;> rfl

theorem checkComplete_rxState (c : Params) (s : State) :
    (checkComplete c s).rxState = if c.pktBits < s.cursor then .packetReceived else s.rxState := by
  unfold checkComplete; split <;> rfl

section Emit
variable (c : Params) (s : State) (b : Bool)

@[simp] theorem emitBit_shortCnt : (emitBit c s b).shortCnt = s.shortCnt := by simp [emitBit]
@[simp] theorem emitBit_pending : (emitBit c s b).pending = s.pending := by simp [emitBit]
@[simp] theorem emitBit_half : (emitBit c s b).half = s.half := by simp [emitBit]
@[simp] theorem emitBit_cursor : (emitBit c s b).cursor = (s.cursor + 1) % 2 ^ c.curW := by simp [emitBit]
@[simp] theorem emitBit_indicator : (emitBit c s b).indicator = s.indicator := by simp [emitBit]
@[simp] theorem emitBit_prevTs : (emitBit c s b).prevTs = s.prevTs := by simp [emitBit]
@[simp] theorem emitBit_edgeSel : (emitBit c s b).edgeSel = s.edgeSel := by simp [emitBit]
@[simp] theorem emitBit_draws : (emitBit c s b).draws = s.draws := by simp [emitBit]
@[simp] theorem emitBit_input : (emitBit c s b).input = s.input := by simp [emitBit]
@[simp] theorem emitBit_returns : (emitBit c s b).returns = s.returns := by simp [emitBit]
@[simp] theorem emitBit_mem : (emitBit c s b).mem = (bitWrite c s s.cursor b).mem := by simp [emitBit]

theorem emitBit_rxState :
    (emitBit c s b).rxState = if c.pktBits < (s.cursor + 1) % 2 ^ c.curW then .packetReceived else s.rxState := by
  simp [emitBit, checkComplete_rxState]

theorem packetBit_emitBit (j : Nat) :
    packetBit (emitBit c s b) j =
      if s.cursor < c.pktBits ∧ j = s.cursor then b else packetBit s j := by
  rw [← packetBit_bitWrite]
  exact packetBit_congr (by simp) (by simp) j

theorem bufByte_emitBit_other {i : Nat} (h : s.cursor < c.pktBits → i ≠ s.cursor / 8) :
    bufByte (emitBit c s b) i = bufByte s i := by
  rw [← bufByte_bitWrite_other c s s.cursor b h]
  exact bufByte_congr (by simp) (by simp) i

end Emit

/-- `Emit` as one update of three registers (42_bit_decoder R154). -/
theorem emitBit_eq (c : Params) (s : State) (b : Bool) : emitBit c s b = { s with
    mem := (bitWrite c s s.cursor b).mem, cursor := (s.cursor + 1) % 2 ^ c.curW,
    rxState := if c.pktBits < (s.cursor + 1) % 2 ^ c.curW then .packetReceived else s.rxState } := by
  simp only [emitBit, checkComplete, bitWrite]
  split <;> split <;> simp_all [advanceCursor, completePacket, writeByte]

/-- All that `Emit` does (42_bit_decoder R154). -/
theorem emitBit_emitted (c : Params) (s : State) (b : Bool) : Emitted c s b (emitBit c s b) := by
  refine ⟨by simp, emitBit_rxState _ _ _, fun k hk => ?_, fun i hi => bufByte_emitBit_other _ _ _ hi, by simp⟩
  rw [packetBit_emitBit]
  by_cases h : k = s.cursor
  · rw [if_pos ⟨by omega, h⟩, if_pos h]
  · rw [if_neg (fun h' => h h'.2), if_neg h]

/-! ### CAPTURE by receiver state -/

section Capture
variable (c : Params) (ts : TsField)

theorem effect_capture_idle {s : State} (h : s.rxState = .idle) :
    effect c (.capture ts) s = idleStep c (seenClass c s ts) (commonUpdate s (timestampOperand c ts)) := by
  simp [effect, captureEffect, captureAt, dispatchClass, h]

theorem effect_capture_receiving {s : State} (h : s.rxState = .receiving) :
    effect c (.capture ts) s = recvStep c (seenClass c s ts) (commonUpdate s (timestampOperand c ts)) := by
  simp [effect, captureEffect, captureAt, dispatchClass, h]

theorem effect_capture_packetReceived {s : State} (h : s.rxState = .packetReceived) :
    effect c (.capture ts) s = commonUpdate s (timestampOperand c ts) := by
  simp [effect, captureEffect, captureAt, dispatchClass, h]

/-- What a CAPTURE does to the buffer: nothing, or one `BitWrite` at the cursor while RECEIVING. -/
theorem effect_capture_mem (s : State) :
    (effect c (.capture ts) s).mem = s.mem ∨
      ∃ b, s.rxState = .receiving ∧ (effect c (.capture ts) s).mem = (bitWrite c s s.cursor b).mem := by
  cases hr : s.rxState with
  | idle =>
    rw [effect_capture_idle c ts hr]; left
    cases seenClass c s ts <;> simp [idleStep, idleLong]
    split <;> simp
  | receiving =>
    rw [effect_capture_receiving c ts hr]
    cases seenClass c s ts
    · exact .inl rfl
    · simp only [recvStep, decodeShort]
      split
      · exact .inr ⟨s.pending, trivial, by simp [bitWrite_mem]⟩
      · exact .inl rfl
    · simp only [recvStep, decodeLong]
      split
      · exact .inl rfl
      · exact .inr ⟨!s.pending, trivial, by simp [bitWrite_mem]⟩
  | packetReceived => exact .inl (by rw [effect_capture_packetReceived c ts hr]; rfl)
  | reserved => exact .inl (by simp [effect, captureEffect, captureAt, dispatchClass, hr])

/-- What every CAPTURE does, whatever the receiver state and the class (40_classifier R104). -/
theorem effect_capture_common (s : State) :
    (effect c (.capture ts) s).prevTs = timestampOperand c ts ∧ (effect c (.capture ts) s).edgeSel = !s.edgeSel ∧
      (effect c (.capture ts) s).draws = s.draws ∧ (effect c (.capture ts) s).input = s.input ∧
      (effect c (.capture ts) s).returns = s.returns := by
  cases hr : s.rxState with
  | idle =>
    rw [effect_capture_idle c ts hr]
    cases seenClass c s ts <;> simp [idleStep, idleLong]
    split <;> simp
  | receiving =>
    rw [effect_capture_receiving c ts hr]
    cases seenClass c s ts <;> simp [recvStep, decodeShort, decodeLong] <;> split <;> simp
  | packetReceived => simp [effect_capture_packetReceived c ts hr]
  | reserved => simp [effect, captureEffect, captureAt, dispatchClass, hr]

end Capture

/-- No operation leaves the core's three receiver states (41_receive_fsm R132). -/
theorem effect_legal (c : Params) (i : Instr) {s : State} (h : Legal s) : Legal (effect c i s) := by
  have emit : ∀ (u : State) (b : Bool), u.rxState = .receiving → Legal (emitBit c u b) := fun u b hu => by
    rw [Legal, emitBit_rxState, hu]; split <;> decide
  cases i with
  | capture ts =>
    cases hr : s.rxState with
    | idle =>
      rw [effect_capture_idle c ts hr]
      cases seenClass c s ts <;> simp [Legal, idleStep, idleLong, hr]
      split <;> simp
    | receiving =>
      rw [effect_capture_receiving c ts hr]
      cases seenClass c s ts
      · simp [Legal, recvStep, hr]
      · simp only [recvStep, decodeShort]
        split
        · simpa [Legal] using emit (commonUpdate s (timestampOperand c ts)) s.pending hr
        · simp [Legal, hr]
      · simp only [recvStep, decodeLong]
        split
        · simp [Legal]
        · exact emit _ _ hr
    | packetReceived => simp [effect_capture_packetReceived c ts hr, Legal, hr]
    | reserved => exact absurd hr h
  | _ => first | exact h | simp [Legal, effect]

/-! ### Timestamps -/

theorem two_pow_tsW_pos (c : Params) : 0 < 2 ^ c.tsW := Nat.pow_pos (by decide)

theorem timestampOperand_lt (c : Params) (ts : TsField) : timestampOperand c ts < 2 ^ c.tsW :=
  Nat.mod_lt _ (two_pow_tsW_pos c)

theorem tickDelta_lt (c : Params) (ts prev : Nat) : tickDelta c ts prev < 2 ^ c.tsW :=
  Nat.mod_lt _ (two_pow_tsW_pos c)

/-- The difference of a timestamp `g` ticks after another (40_classifier R100, R105). -/
theorem tickDelta_add (c : Params) (prev g : Nat) : tickDelta c ((prev + g) % 2 ^ c.tsW) prev = g % 2 ^ c.tsW := by
  have hp := Nat.mod_lt prev (two_pow_tsW_pos c)
  unfold tickDelta
  rw [Nat.mod_add_mod, ← Nat.mod_add_mod, Nat.add_mod prev g, Nat.mod_add_mod,
    show prev % 2 ^ c.tsW + g % 2 ^ c.tsW + (2 ^ c.tsW - prev % 2 ^ c.tsW) = g % 2 ^ c.tsW + 2 ^ c.tsW by omega,
    Nat.add_mod_right, Nat.mod_mod]

/-! ### The step -/

theorem stepConfigured_hw (s : State) : stepConfigured hw s = step s := by
  unfold stepConfigured step
  generalize nextOperation hw s = r
  obtain ⟨_ | i, t⟩ := r
  · rfl
  · exact execConfigured_hw i t

/-- All a step can do: one operation, on the state with the operations still presented. -/
theorem stepConfigured_next_cases {c : Params} {s t : State} (h : stepConfigured c s = .next t) :
    ∃ (i : Instr) (rest : List OpWord), execConfigured c i { s with input := rest } = .next t := by
  unfold stepConfigured nextOperation at h
  split at h
  case h_2 => cases h
  case h_1 heq =>
    split at heq
    · cases heq; exact ⟨_, _, h⟩
    · injection heq with hd ht
      subst ht; exact ⟨_, _, h⟩

/-- The same of this hardware's step. -/
theorem step_next_cases {s t : State} (h : step s = .next t) :
    ∃ (i : Instr) (rest : List OpWord), exec i { s with input := rest } = .next t := by
  obtain ⟨i, rest, h'⟩ := stepConfigured_next_cases ((stepConfigured_hw s).trans h)
  exact ⟨i, rest, by rw [← execConfigured_hw]; exact h'⟩

/-! ### Runs -/

@[simp] theorem andThen_next (t : State) (f : State → Outcome) : andThen (.next t) f = f t := (rfl)
@[simp] theorem andThen_refused (r : Refusal) (f : State → Outcome) : andThen (.refused r) f = .refused r := (rfl)

section Runs
variable {c : Params}

@[simp] theorem runOps_nil (s : State) : runOps c [] s = .next s := (rfl)

theorem runOps_cons (i : Instr) (is : List Instr) (s : State) :
    runOps c (i :: is) s = andThen (execConfigured c i s) (runOps c is) := rfl

theorem runOps_cons_legal (hc : Accepted c) {s : State} (h : Legal s) (i : Instr) (is : List Instr) :
    runOps c (i :: is) s = runOps c is (effect c i s) := by
  rw [runOps_cons, execConfigured_of_legal hc h, andThen_next]

theorem runOps_cons_next {i : Instr} {is : List Instr} {s u : State} (h : runOps c (i :: is) s = .next u) :
    Accepted c ∧ Legal s ∧ runOps c is (effect c i s) = .next u := by
  rw [runOps_cons] at h
  cases he : execConfigured c i s with
  | next t =>
    obtain ⟨hc, hl, rfl⟩ := execConfigured_next_cases he
    exact ⟨hc, hl, by rw [he] at h; exact h⟩
  | fault r => rw [he] at h; cases h
  | refused r => rw [he] at h; cases h

theorem andThen_assoc (o : Outcome) (f g : State → Outcome) :
    andThen (andThen o f) g = andThen o fun t => andThen (f t) g := by
  cases o <;> rfl

theorem runOps_append (is js : List Instr) (s : State) :
    runOps c (is ++ js) s = andThen (runOps c is s) (runOps c js) := by
  induction is generalizing s with
  | nil => rfl
  | cons i is ih =>
    simp only [List.cons_append, runOps_cons, andThen_assoc]
    congr 1
    funext t
    exact ih t

end Runs

end Sys2Proof.Machine
end

