-- ==== Sys2Proof/Laws/PerInstr.lean ====
section
/-! SUPPORT. A fact about every operation as syntax, one lemma per constructor: its word selects exactly the row of the
opcode table with its mnemonic (30_encoding R76), for every width of the timestamp. -/

namespace Sys2Proof.Laws.WordMatchesRow

open Sys2Proof

/-- The operation's word selects exactly the row of the opcode table with its mnemonic. -/
def Statement (i : Instr) : Prop :=
  ∀ c : Params, i.wellFormed c = true →
    ((opcodeTable c).filter fun r => rowSelects r (encode i)).map OpcodeRow.mnemonic = [i.mnemonic]

/-- A word whose op field is not CAPTURE's does not select CAPTURE's row, whatever its mask below the op field. -/
theorem captureRow_opField {c : Params} {w : OpWord} (h : w &&& captureMask c = 0x10000000#32) : opField w = 1#4 := by
  have : (w &&& captureMask c).extractLsb' 28 4 = 1#4 := by rw [h]; decide
  refine Eq.trans (BitVec.eq_of_getLsbD_eq fun i hi => ?_) this
  simp only [opField, captureMask, BitVec.getLsbD_extractLsb', BitVec.getLsbD_and, BitVec.getLsbD_or]
  interval_cases i <;> simp

/-- An operation without a timestamp: the rows other than CAPTURE's do not depend on the parameters. -/
theorem of_other {i : Instr} (hop : opField (encode i) ≠ 1#4)
    (h : ((opcodeTable Sys2Proof.Machine.hw).filter fun r => rowSelects r (encode i)).map OpcodeRow.mnemonic =
      [i.mnemonic]) : Statement i := by
  intro c _
  have row (d : Params) : rowSelects ⟨"CAPTURE", 0x10000000#32, captureMask d, some .edgeTimer⟩ (encode i) = false :=
    decide_eq_false fun hw => hop (captureRow_opField hw)
  simp only [opcodeTable, List.filter_cons, row] at h ⊢
  exact h

theorem nop : Statement .nop := of_other (by decide) (by decide)
theorem overflow : Statement .overflow := of_other (by decide) (by decide)
theorem rxReset : Statement .rxReset := of_other (by decide) (by decide)
theorem readStatus : Statement .readStatus := of_other (by decide) (by decide)
theorem readStationId : Statement .readStationId := of_other (by decide) (by decide)
theorem readPktType : Statement .readPktType := of_other (by decide) (by decide)
theorem powerOnReset : Statement .powerOnReset := of_other (by decide) (by decide)

theorem readByte : ∀ idx, Statement (.readByte idx) := by
  have hop : ∀ idx, opField (encode (.readByte idx)) ≠ 1#4 := by decide
  have hrow : ∀ idx, ((opcodeTable Sys2Proof.Machine.hw).filter fun r =>
      rowSelects r (encode (.readByte idx))).map OpcodeRow.mnemonic = [(Instr.readByte idx).mnemonic] := by decide
  exact fun idx => of_other (hop idx) (hrow idx)

/-- A row whose mask covers the op field and whose pattern's op field is not CAPTURE's is not selected by a CAPTURE. -/
theorem capture_other (ts : TsField) {mask pat : OpWord} (hm : mask.extractLsb' 28 4 = 0xF#4)
    (hp : pat.extractLsb' 28 4 ≠ 0x1#4) : ¬ (encode (.capture ts) &&& mask = pat) := by
  intro h
  refine hp ?_
  rw [← h, BitVec.extractLsb'_and, hm]
  have : (encode (.capture ts)).extractLsb' 28 4 = 1#4 := by
    simp only [encode]
    refine BitVec.eq_of_getLsbD_eq fun i hi => ?_
    simp only [BitVec.getLsbD_extractLsb', BitVec.getLsbD_append]
    interval_cases i <;> simp
  rw [this]; decide

/-- A CAPTURE whose timestamp fits selects its own row. -/
theorem capture_own (c : Params) (ts : TsField) (h : ts.toNat < 2 ^ c.tsW) :
    encode (.capture ts) &&& captureMask c = 0x10000000#32 := by
  refine BitVec.eq_of_getLsbD_eq fun i hi => ?_
  simp only [encode, captureMask, BitVec.getLsbD_and, BitVec.getLsbD_or, BitVec.getLsbD_append, BitVec.getLsbD_not]
  by_cases h28 : i < 28
  · by_cases hts : i < c.tsW
    · have : (BitVec.ofNat 32 (2 ^ c.tsW - 1)).getLsbD i = true := by
        simp [BitVec.getLsbD_ofNat, hi, Nat.testBit_two_pow_sub_one, hts]
      rw [this]
      interval_cases i <;> simp
    · have : ts.getLsbD i = false := by
        rw [← BitVec.testBit_toNat]
        exact Nat.testBit_lt_two_pow (Nat.lt_of_lt_of_le h (Nat.pow_le_pow_right (by decide) (by omega)))
      rw [if_pos h28, this, Bool.false_and]
      interval_cases i <;> simp
  · interval_cases i <;> simp_all

theorem capture (ts : TsField) : Statement (.capture ts) := by
  intro c h
  have own := capture_own c ts (by simpa [Instr.wellFormed] using h)
  simp only [opcodeTable, rowSelects, List.filter_cons, List.filter_nil, own,
    capture_other ts (mask := 0xFFFFFFFF#32) (pat := 0x00000000#32) (by decide) (by decide),
    capture_other ts (mask := 0xFFFFFFFF#32) (pat := 0x20000000#32) (by decide) (by decide),
    capture_other ts (mask := 0xFFFFFFFF#32) (pat := 0x30000000#32) (by decide) (by decide),
    capture_other ts (mask := 0xFFFFFFFF#32) (pat := 0x40000000#32) (by decide) (by decide),
    capture_other ts (mask := 0xFFFFFFF8#32) (pat := 0x50000000#32) (by decide) (by decide),
    capture_other ts (mask := 0xFFFFFFFF#32) (pat := 0x60000000#32) (by decide) (by decide),
    capture_other ts (mask := 0xFFFFFFFF#32) (pat := 0x70000000#32) (by decide) (by decide),
    capture_other ts (mask := 0xFFFFFFFF#32) (pat := 0xF0000000#32) (by decide) (by decide)]
  rfl

end Sys2Proof.Laws.WordMatchesRow
end

