-- ==== Sys2Proof/Tests/Slice0.lean ====
section
/-! SUPPORT. Tests. Expected results are the spec's: the encodings of 30_encoding R74 to R79, the vectors of
95_test_vectors L2, and values worked out from the rules. The last part shows, for every statement with hypotheses, states
and operands that meet them. -/

namespace Sys2Proof.Tests

open Sys2Proof Sys2Proof.Machine

/-- A state by its registers, with an empty list of operations and of returned values. -/
def st (rx : RxState) (cnt : Nat) (pending half : Bool) (cursor : Nat) (indicator : Bool) (prev : Nat)
    (esel : Bool) : State :=
  { rxState := rx, shortCnt := cnt, pending := pending, half := half, cursor := cursor, indicator := indicator,
    prevTs := prev, edgeSel := esel, mem := [], draws := 0, input := [], returns := [] }

/-- IDLE with a count. -/
def idleAt (cnt : Nat) : State := st .idle cnt false false 0 false 0 false

/-- RECEIVING with PENDING, HALF and CURSOR. -/
def recvAt (pending half : Bool) (cursor : Nat) : State := st .receiving 0 pending half cursor true 0 false

/-- PACKET_RECEIVED. -/
def packetAt : State := st .packetReceived 0 true false 65 true 0 false

/-- RXSTATE / SHORTCNT / PENDING / HALF / CURSOR / INDICATOR / PREV_TS / EDGE_SEL, as 95_test_vectors writes a state. -/
structure Regs where
  rx : RxState
  cnt : Nat
  pending : Bool
  half : Bool
  cursor : Nat
  indicator : Bool
  prev : Nat
  esel : Bool
  deriving DecidableEq, Repr

/-- The registers an operation leaves, less the buffer. -/
def regs (o : Outcome) : Option Regs :=
  match o with
  | .next t => some ⟨t.rxState, t.shortCnt, t.pending, t.half, t.cursor, t.indicator, t.prevTs, t.edgeSel⟩
  | .fault _ => none
  | .refused _ => none

/-- The value an operation returned. -/
def returned (o : Outcome) : Option Byte :=
  match o with
  | .next t => t.returns.head?
  | .fault _ => none
  | .refused _ => none

/-! ### Decoding: words written out bit by bit from R74 to R76 -/

theorem test_decode_nop : decode hw 0b00000000000000000000000000000000#32 = .ok .nop := by decide
theorem test_decode_capture : decode hw 0b00010000000000000000000001111101#32 = .ok (.capture 125#28) := by decide
theorem test_decode_capture_top : decode hw 0b00010000000000001000000000000001#32 = .ok (.capture 0x8001#28) := by decide
theorem test_decode_overflow : decode hw 0b00100000000000000000000000000000#32 = .ok .overflow := by decide
theorem test_decode_rx_reset : decode hw 0b00110000000000000000000000000000#32 = .ok .rxReset := by decide
theorem test_decode_read_status : decode hw 0b01000000000000000000000000000000#32 = .ok .readStatus := by decide
theorem test_decode_read_byte : decode hw 0b01010000000000000000000000000110#32 = .ok (.readByte 6#3) := by decide
theorem test_decode_read_station_id : decode hw 0b01100000000000000000000000000000#32 = .ok .readStationId := by decide
theorem test_decode_read_pkt_type : decode hw 0b01110000000000000000000000000000#32 = .ok .readPktType := by decide
theorem test_decode_power_on_reset : decode hw 0b11110000000000000000000000000000#32 = .ok .powerOnReset := by decide

theorem test_table_word_read_byte : decodeTableWord 32 0x50000003 = some (.readByte 3#3) := by decide
theorem test_table_word_reserved : decodeTableWord 32 0x90000000 = none := by decide

/-- A table row's word, presented to the reset state, is the next operation: CAPTURE 125 after POR counts one SHORT
(V-K22). -/
theorem test_fetch_word_runs_first :
    (regs (step (State.reset.withFetchWord 32 0x1000007D))).map (fun r => (r.rx, r.cnt, r.prev)) =
      some (.idle, 1, 0x7D) := by decide

/-! ### Well-formedness: an ill-formed term for each check -/

/-- R79: an op field in `0x8` to `0xE`; a reserved bit of format T, B, N. -/
theorem test_ill_formed_words :
    wordWellFormed hw 0x80000000#32 = false ∧ wordWellFormed hw 0xE0000000#32 = false ∧
    wordWellFormed hw 0x10010000#32 = false ∧ wordWellFormed hw 0x50000008#32 = false ∧
    wordWellFormed hw 0x40000010#32 = false ∧ wordWellFormed hw 0xF0000001#32 = false := by decide

/-- The words at the edges of the formats are well formed. -/
theorem test_well_formed_words :
    wordWellFormed hw 0x1000FFFF#32 = true ∧ wordWellFormed hw 0x50000007#32 = true ∧ wordWellFormed hw 0xF0000000#32 = true := by
  decide

/-- R207: an operation from an agent that may not issue it. -/
theorem test_ill_formed_agents :
    Agent.packetConsumer.mayIssue (.capture 5#28) = false ∧ Agent.edgeTimer.mayIssue .rxReset = false ∧
    Agent.edgeTimer.mayIssue .powerOnReset = false ∧ Agent.platform.mayIssue .readStatus = false ∧
    Agent.packetConsumer.streamWellFormed [.readStatus, .overflow] = false ∧
    Agent.packetConsumer.mayIssue .nop = false := by decide

/-- R81: a timestamp of more than `TS_W` bits; the index of READ_BYTE fits by its type. -/
theorem test_ill_formed_operand :
    (Instr.capture 0x10000#28).wellFormed hw = false ∧ (Instr.capture 0xFFFF#28).wellFormed hw = true ∧
    (Instr.readByte 7#3).wellFormed hw = true := by decide

/-- R7: one configuration for each condition that it breaks. -/
theorem test_ill_formed_configurations :
    paramsAccepted hw = true ∧
    paramsWellFormed { hw with shortMin := 551 } = false ∧ paramsWellFormed { hw with shortMax := 950 } = false ∧
    paramsWellFormed { hw with longMax := 949 } = false ∧ paramsWellFormed { hw with syncThreshold := 255 } = false ∧
    paramsWellFormed { hw with pktBytes := 9 } = false ∧ paramsWellFormed { hw with pktBits := 128, pktBytes := 16 } = false ∧
    paramsWellFormed { hw with tsW := 0 } = false ∧ paramsWellFormed { hw with tsW := 29 } = false ∧
    paramsWellFormed { hw with tuPerTick := 0 } = false ∧ paramsSymmetric { hw with shortMin := 440 } = false ∧
    paramsSymmetric { hw with longMax := 1060 } = false := by decide

/-- Another configuration: 12-bit timestamps, a 7-bit counter, a 6-bit cursor, packets of 4 bytes. -/
def narrow : Params := { hw with tsW := 12, cntW := 7, curW := 6, pktBits := 32, pktBytes := 4 }

/-- R7, R24, R27, R29, R76, R100 at that configuration: the mask of CAPTURE, the wrap of a difference, the saturation of
the counter, the completion at 33 bits. -/
theorem test_other_configuration :
    paramsAccepted narrow = true ∧ captureMask narrow = 0xFFFFF000#32 ∧
    decode narrow 0x10000FFF#32 = .ok (.capture 0xFFF#28) ∧ decode narrow 0x10001000#32 = .error .reservedBits ∧
    captureClass narrow 0xFF0 0x06D = .short ∧
    regs (execConfigured narrow (.capture 125#28) (idleAt 126)) = some ⟨.idle, 127, false, false, 0, false, 125, true⟩ ∧
    regs (execConfigured narrow (.capture 125#28) (idleAt 127)) = some ⟨.idle, 127, false, false, 0, false, 125, true⟩ ∧
    regs (execConfigured narrow (.capture 250#28) (recvAt false false 31)) =
      some ⟨.receiving, 0, true, false, 32, true, 250, true⟩ ∧
    regs (execConfigured narrow (.capture 250#28) (recvAt false false 32)) =
      some ⟨.packetReceived, 0, true, false, 33, true, 250, true⟩ := by decide

/-! ### The classifier -/

/-- V-K1 to V-K12. -/
theorem test_classifier_ticks :
    captureClass hw 0x0000 0x0070 = .invalid ∧ captureClass hw 0x0000 0x0071 = .short ∧
    captureClass hw 0x0000 0x0089 = .short ∧ captureClass hw 0x0000 0x008A = .invalid ∧
    captureClass hw 0x0000 0x00ED = .invalid ∧ captureClass hw 0x0000 0x00EE = .long ∧
    captureClass hw 0x0000 0x0106 = .long ∧ captureClass hw 0x0000 0x0107 = .invalid ∧
    captureClass hw 0xFFF0 0x006D = .short ∧ captureClass hw 0x1234 0x1234 = .invalid ∧
    captureClass hw 0x0001 0x0000 = .invalid ∧ captureClass hw 0xFF80 0x0078 = .long := by decide

/-- V-K13 to V-K20, and the row below them: with `TU_PER_TICK = 1` a delta of 500 is SHORT. -/
theorem test_classifier_periods :
    classify hw 449 = .invalid ∧ classify hw 450 = .short ∧ classify hw 550 = .short ∧ classify hw 551 = .invalid ∧
    classify hw 949 = .invalid ∧ classify hw 950 = .long ∧ classify hw 1050 = .long ∧ classify hw 1051 = .invalid ∧
    captureClass { hw with tuPerTick := 1 } 0 500 = .short := by decide

/-! ### One step of each operation -/

/-- V-I1 to V-I5, V-I8: the preamble counter and sync entry. -/
theorem test_capture_idle :
    regs (exec (.capture 125#28) (idleAt 0)) = some ⟨.idle, 1, false, false, 0, false, 125, true⟩ ∧
    regs (exec (.capture 125#28) (idleAt 255)) = some ⟨.idle, 255, false, false, 0, false, 125, true⟩ ∧
    regs (exec (.capture 250#28) (idleAt 100)) = some ⟨.idle, 0, false, false, 0, false, 250, true⟩ ∧
    regs (exec (.capture 250#28) (idleAt 101)) = some ⟨.receiving, 0, false, false, 0, true, 250, true⟩ ∧
    regs (exec (.capture 25#28) (idleAt 50)) = some ⟨.idle, 0, false, false, 0, false, 25, true⟩ := by decide

/-- V-RV1, V-RV2, V-RV5 to V-RV7, V-E3 to V-E5, V-P2: the decoder's registers. -/
theorem test_capture_receiving :
    regs (exec (.capture 125#28) (recvAt false false 0)) = some ⟨.receiving, 0, false, true, 0, true, 125, true⟩ ∧
    regs (exec (.capture 125#28) (recvAt false true 3)) = some ⟨.receiving, 0, false, false, 4, true, 125, true⟩ ∧
    regs (exec (.capture 250#28) (recvAt true false 1)) = some ⟨.receiving, 0, false, false, 2, true, 250, true⟩ ∧
    regs (exec (.capture 250#28) (recvAt true true 17)) = some ⟨.idle, 0, false, false, 0, false, 250, true⟩ ∧
    regs (exec (.capture 25#28) (recvAt true true 10)) = some ⟨.receiving, 0, true, true, 10, true, 25, true⟩ ∧
    regs (exec (.capture 250#28) (recvAt false false 63)) = some ⟨.receiving, 0, true, false, 64, true, 250, true⟩ ∧
    regs (exec (.capture 125#28) (recvAt false true 64)) = some ⟨.packetReceived, 0, false, false, 65, true, 125, true⟩ ∧
    regs (exec (.capture 250#28) (recvAt false false 64)) = some ⟨.packetReceived, 0, true, false, 65, true, 250, true⟩ ∧
    regs (exec (.capture 250#28) packetAt) = some ⟨.packetReceived, 0, true, false, 65, true, 250, true⟩ := by decide

/-- V-RV2, V-RV3, V-RV5, V-E1, V-E2, V-E6: the byte a bit leaves, most significant bit first. -/
theorem test_bit_order :
    withOffsetBit 0xFF#8 (offsetOfBit 3) false = 0xEF#8 ∧ withOffsetBit 0x00#8 (offsetOfBit 0) true = 0x80#8 ∧
    withOffsetBit 0xFF#8 (offsetOfBit 1) false = 0xBF#8 ∧ withOffsetBit 0x00#8 (offsetOfBit 7) true = 0x01#8 ∧
    withOffsetBit 0x00#8 (offsetOfBit 8) true = 0x80#8 ∧ byteOfBit 8 = 1 ∧
    withOffsetBit 0xFF#8 (offsetOfBit 63) false = 0xFE#8 ∧ byteOfBit 63 = 7 := by decide

/-- V-RV2: the bit at CURSOR = 3 of a buffer of ones is written 0. -/
theorem test_bit_write_in_buffer :
    bufByte (bitWrite hw { recvAt false true 3 with mem := [(0, 0xFF#8)] } 3 false) 0 = 0xEF#8 := by
  show bufByte (writeByte _ 0 _) 0 = _
  rw [bufByte_writeByte_same]
  decide

/-- V-M1, V-M3: RX_RESET. -/
theorem test_rx_reset :
    regs (exec .rxReset packetAt) = some ⟨.idle, 0, false, false, 0, false, 0, false⟩ ∧
    regs (exec .rxReset (recvAt true true 30)) = some ⟨.idle, 0, false, false, 0, false, 0, false⟩ := by decide

/-- V-M5, V-M6. -/
theorem test_overflow_and_nop :
    regs (exec .overflow (recvAt true true 30)) = regs (.next (recvAt true true 30)) ∧
    regs (exec .nop (recvAt true true 30)) = regs (.next (recvAt true true 30)) := by decide

/-- V-C1 to V-C5: the status word. -/
theorem test_read_status :
    returned (exec .readStatus (idleAt 0)) = some 0x00#8 ∧
    returned (exec .readStatus { idleAt 0 with edgeSel := true }) = some 0x10#8 ∧
    returned (exec .readStatus (recvAt false false 0)) = some 0x09#8 ∧
    returned (exec .readStatus { packetAt with edgeSel := true }) = some 0x1E#8 ∧
    returned (exec .readStatus packetAt) = some 0x0E#8 := by decide

/-- The buffer of V-C6 to V-C9, `80 C5 44 02 00 00 02 0E`. -/
def bufferOfC6 : State :=
  { packetAt with mem := [(0, 0x80#8), (1, 0xC5#8), (2, 0x44#8), (3, 0x02#8), (4, 0x00#8), (5, 0x00#8), (6, 0x02#8), (7, 0x0E#8)] }

/-- V-C6 to V-C9. -/
theorem test_reads :
    returned (exec .readStationId bufferOfC6) = some 0x80#8 ∧ returned (exec .readPktType bufferOfC6) = some 0x05#8 ∧
    returned (exec (.readByte 1#3) bufferOfC6) = some 0xC5#8 ∧ returned (exec (.readByte 7#3) bufferOfC6) = some 0x0E#8 := by
  decide

/-- R55: the 64-bit view of the same buffer. -/
theorem test_pkt_data : pktData bufferOfC6 = 0x80C544020000020E#64 := by decide

/-- V-M8: power-on reset, with EDGE_SEL at the open value and a new draw. -/
theorem test_power_on_reset :
    exec .powerOnReset packetAt = .next { State.reset with draws := 1 } := rfl

/-- V-M7: a reset and an edge in one cycle. -/
theorem test_same_cycle :
    regs (clockEdge hw ⟨false, true, 0x107D#16, false, true⟩ { packetAt with prevTs := 0x1000 }) =
      some ⟨.idle, 1, false, false, 0, false, 0x107D, true⟩ := by decide

/-- R158: the 64 bits of scenario A are 114 periods, those of program P3. -/
theorem test_scenario_a_encoding :
    let bytes := [0x80#8, 0xC0#8, 0x44#8, 0x02#8, 0x00#8, 0x00#8, 0x02#8, 0x0E#8]
    let cls := encodeBits false (bytes.flatMap fun b => (List.range 8).map (offsetBit b))
    cls.length = 114 ∧ cls.take 16 = [.long, .long, .short, .short, .short, .short, .short, .short, .short, .short, .short,
      .short, .short, .short, .long, .short] ∧ cls.getLast? = some .long := by decide

/-! ### The assembler (R81, R82) -/

/-- Program P1 up to its first data bit: SYNC is 101 SHORTs and a LONG at 0x324B, then `L` is 0x10003345. -/
theorem test_assemble_sync :
    ((assemble hw [.sync, .long]).map encode).length = 103 ∧
    ((assemble hw [.sync, .long]).map encode)[0]? = some 0x1000007D#32 ∧
    ((assemble hw [.sync, .long]).map encode)[101]? = some 0x1000324B#32 ∧
    ((assemble hw [.sync, .long]).map encode)[102]? = some 0x10003345#32 := by decide +kernel

/-- The text forms of R81 and R82. -/
theorem test_assembler_text :
    asmText hw ['c', 'a', 'p', 't', 'u', 'r', 'e', ' ', '0', 'x', '7', 'D', ' ', ';', 'x'] = some ([.op (.capture 125#28)], none) ∧
    asmText hw ['R', 'E', 'A', 'D', '_', 'B', 'Y', 'T', 'E', ' ', '7', ' ', '-', '>', ' ', '0', 'x', '0', 'E'] =
      some ([.op (.readByte 7#3)], some 14) ∧
    asmText hw ['R', 'E', 'A', 'D', '_', 'B', 'Y', 'T', 'E', ' ', '8'] = none ∧
    asmText hw ['.', 'r', 'e', 'p', ' ', '5', '0', ' ', Char.ofNat 123, ' ', 'S', ' ', Char.ofNat 125] =
      some ([.rep 50 .short], none) ∧
    asmText hw ['B', 'I', 'T', 'S', ' ', '0', '1', ' ', '1'] = some ([.bits [false, true, true]], none) ∧
    asmText hw ['N', 'O', 'P', ' ', '-', '>', ' ', '1'] = none ∧ asmText hw [' ', ';'] = some ([], none) := by decide

/-! ### Witnesses: the hypotheses of the statements are met -/

theorem witness_StepRunsTheDecodedOperation :
    ∃ (s : State) (w : OpWord) (rest : List OpWord) (i : Instr), s.input = w :: rest ∧ decode hw w = .ok i :=
  ⟨{ idleAt 7 with input := [0x1000007D#32, 0x40000000#32] }, 0x1000007D#32, [0x40000000#32], .capture 125#28, rfl, by decide⟩

theorem witness_StepWithNothingPresentedIsNop : (recvAt true true 3).input = [] := rfl

/-- Both ends of each clause's range. -/
theorem witness_ReservedWordsAreRefused :
    (∀ w ∈ [0x80000000#32, 0xEFFFFFFF#32], 0x8 ≤ w.toNat / 2 ^ 28 ∧ w.toNat / 2 ^ 28 ≤ 0xE) ∧
    (∀ w ∈ [0x10010000#32, 0x1FFFFFFF#32], w.toNat / 2 ^ 28 = 0x1 ∧ 2 ^ 16 ≤ w.toNat % 2 ^ 28) ∧
    (∀ w ∈ [0x50000008#32, 0x5FFFFFFF#32], w.toNat / 2 ^ 28 = 0x5 ∧ 2 ^ 3 ≤ w.toNat % 2 ^ 28) ∧
    (∀ w ∈ [0x00000001#32, 0xFFFFFFFF#32], w.toNat / 2 ^ 28 ∈ [0x0, 0x2, 0x3, 0x4, 0x6, 0x7, 0xF] ∧ 0 < w.toNat % 2 ^ 28) ∧
    (∀ w : OpWord, ∃ s : State, s.input = w :: []) :=
  ⟨by simp, by simp, by simp, by simp, fun w => ⟨{ idleAt 0 with input := [w] }, rfl⟩⟩

theorem witness_CoreRunPerformsThePresentedOperations :
    ({ idleAt 3 with input := [0x1000007D#32, 0x30000000#32, 0x80000000#32] } : State).input =
      [Instr.capture 125#28, Instr.rxReset].map encode ++ [0x80000000#32] ∧
    ∀ i ∈ [Instr.capture 125#28, Instr.rxReset], i.wellFormed hw = true := by decide

theorem witness_DecodeOfEncodeIsTheOperation :
    (Instr.capture 0xFFFF#28).wellFormed hw = true ∧ (Instr.readByte 7#3).wellFormed hw = true := by decide

theorem witness_EncodeOfDecodeIsTheWord : decode hw 0x1000FFFF#32 = .ok (.capture 0xFFFF#28) := by decide

theorem witness_DecoderAgreesWithTheOpcodeTable :
    (∃ r ∈ opcodeTable hw, rowSelects r 0x1000FFFF#32 = true) ∧ decode hw 0x50000007#32 = .ok (.readByte 7#3) := by decide

/-- The configuration of this hardware is one that R7 lets a model accept, and so is another: the hypothesis `Accepted c`. -/
theorem witness_accepted : Accepted hw ∧ Accepted narrow := by decide

/-- Each of the three states of RXSTATE is legal: the one hypothesis of PowerOnResetSetsEveryRegister,
RxResetIsAFullReset, NopAndOverflowChangeNothing, ReadStatusReturnsTheStatusWord, ReadByteReturnsTheByte,
ReadStationIdReturnsByteZero, ReadPktTypeReturnsTheLowNibble, CaptureUpdatesPrevTsAndEdgeSel,
EveryOperationSequenceCompletes, PortsCarryWhatReadsReturn; the statements over configurations have `Accepted c` beside it. -/
theorem witness_legal_states : Legal (idleAt 9) ∧ Legal (recvAt true true 64) ∧ Legal packetAt := by decide

theorem witness_ReservedReceiverStateIsRefused : (st .reserved 0 false false 0 false 0 false).rxState = .reserved := rfl

theorem witness_NoEdgeMeansNoChange :
    Legal (recvAt false true 30) ∧ ∀ i ∈ [Instr.nop, .overflow, .nop], i = .nop ∨ i = .overflow := by decide

theorem witness_ReadsAreIdempotent :
    Legal packetAt ∧ readsBuffer (.readByte 7#3) = true ∧ readsBuffer .readStationId = true ∧
    readsBuffer .readPktType = true := by decide

theorem witness_PeriodIsExactInItsWidth :
    1 ≤ ({ hw with tuPerTick := 3 } : Params).tuPerTick ∧ 65535 < 2 ^ ({ hw with tuPerTick := 3 } : Params).tsW := by decide

theorem witness_WellFormedWindowsAreDisjoint : paramsWellFormed { hw with longMin := 551 } = true := by decide

theorem witness_IllFormedConfigurationsAreRefused :
    ¬ (({ hw with longMin := 550 } : Params).shortMin ≤ ({ hw with longMin := 550 } : Params).shortMax ∧
      ({ hw with longMin := 550 } : Params).shortMax < ({ hw with longMin := 550 } : Params).longMin) ∧
    paramsWellFormed { hw with shortMin := 440 } = true ∧ ¬ (440 + hw.shortMax = 2 * 500) := by decide

/-- SHORT at both ends of the count. -/
theorem witness_IdleShortCountsSaturating :
    (idleAt 0).rxState = .idle ∧ (idleAt 255).rxState = .idle ∧
    seenClass hw (idleAt 0) 113#28 = .short ∧ seenClass hw (idleAt 255) 137#28 = .short := by decide

/-- LONG on both sides of the threshold. -/
theorem witness_IdleLongSyncsOrResets :
    (idleAt 101).rxState = .idle ∧ seenClass hw (idleAt 101) 238#28 = .long ∧
    101 ≤ (idleAt 101).shortCnt ∧ (idleAt 100).rxState = .idle ∧
    seenClass hw (idleAt 100) 262#28 = .long ∧ (idleAt 100).shortCnt ≤ 100 := by decide

theorem witness_IgnoredPeriodsChangeNothingElse :
    ((recvAt true true 10).rxState = .receiving ∧ seenClass hw (recvAt true true 10) 600#28 = .invalid) ∧
    packetAt.rxState = .packetReceived := by decide

/-- SHORT with HALF = 0 and HALF = 1, at the cursor's ends. -/
theorem witness_ReceivingShortPairsAndEmits :
    (recvAt false false 0).rxState = .receiving ∧ (recvAt true true 64).rxState = .receiving ∧
    seenClass hw (recvAt true true 64) 125#28 = .short ∧ (recvAt false false 0).half = false ∧
    (recvAt true true 64).half = true := by decide

theorem witness_ReceivingLongTogglesAndEmits :
    (recvAt false false 63).rxState = .receiving ∧ seenClass hw (recvAt false false 63) 250#28 = .long ∧
    (recvAt false false 63).half = false := by decide

/-- The three framing errors, and a CAPTURE that is none, at the threshold. -/
theorem witness_FramingErrorsResetWithinTheCapture :
    Legal (idleAt 255) ∧ frameError hw (captureClass hw 0 25) (idleAt 255) = some .idleInvalid ∧
    frameError hw (captureClass hw 0 250) (idleAt 100) = some .shortPreamble ∧
    frameError hw (captureClass hw 0 250) (recvAt true true 17) = some .midPairLong ∧
    frameError hw (captureClass hw 0 250) (idleAt 101) = none := by decide

/-- RECEIVING below the threshold, and the states outside RECEIVING and the cursor at 64, where no byte is written. -/
theorem witness_CaptureWritesOnlyTheCursorByte :
    (∃ t : State, exec (.capture 250#28) (recvAt false false 63) = .next t ∧
      (recvAt false false 63).rxState = .receiving ∧ (recvAt false false 63).cursor < 64 ∧
      0 ≠ byteOfBit (recvAt false false 63).cursor ∧ 62 ≠ (recvAt false false 63).cursor) ∧
    (∃ t : State, exec (.capture 250#28) (recvAt false false 64) = .next t ∧ ¬ (recvAt false false 64).cursor < 64) ∧
    (∃ t : State, exec (.capture 250#28) (idleAt 101) = .next t ∧ (idleAt 101).rxState ≠ .receiving) ∧
    (∃ t : State, exec (.capture 250#28) packetAt = .next t ∧ packetAt.rxState ≠ .receiving) :=
  ⟨⟨_, exec_of_legal (by decide) _, rfl, by decide, by decide, by decide⟩, ⟨_, exec_of_legal (by decide) _, by decide⟩,
    ⟨_, exec_of_legal (by decide) _, by decide⟩, ⟨_, exec_of_legal (by decide) _, by decide⟩⟩

/-- Each clause at another configuration, and at this hardware's. -/
theorem witness_ConfiguredCaptureFollowsTheParameters :
    Accepted narrow ∧
    ((idleAt 127).rxState = .idle ∧ seenClass narrow (idleAt 127) 125#28 = .short) ∧
    (seenClass narrow (idleAt 101) 250#28 = .long ∧ narrow.syncThreshold < (idleAt 101).shortCnt) ∧
    frameError narrow (seenClass narrow (idleAt 100) 250#28) (idleAt 100) ≠ none ∧
    ((recvAt true true 10).rxState = .receiving ∧ seenClass narrow (recvAt true true 10) 600#28 = .invalid) ∧
    (seenClass narrow (recvAt true false 31) 125#28 = .short ∧ (recvAt true false 31).half = false) ∧
    (seenClass narrow (recvAt true true 32) 125#28 = .short ∧ (recvAt true true 32).half = true) ∧
    (seenClass narrow (recvAt true false 32) 250#28 = .long ∧ (recvAt true false 32).half = false) := by decide

/-- IDLE at and above the threshold, RECEIVING at the last bit, PACKET_RECEIVED, and an operation other than CAPTURE. -/
theorem witness_ReceiverStateTransitions :
    (∃ t : State, exec (.capture 250#28) (idleAt 100) = .next t ∧ (idleAt 100).rxState = .idle) ∧
    (∃ t : State, exec (.capture 250#28) (idleAt 101) = .next t ∧ (idleAt 101).rxState = .idle) ∧
    (∃ t : State, exec (.capture 250#28) (recvAt false false 64) = .next t ∧
      (recvAt false false 64).rxState = .receiving) ∧
    (∃ t : State, exec (.capture 250#28) packetAt = .next t ∧ packetAt.rxState = .packetReceived) ∧
    (∃ t : State, exec .rxReset packetAt = .next t) ∧ isCapture .rxReset = false :=
  ⟨⟨_, exec_of_legal (by decide) _, rfl⟩, ⟨_, exec_of_legal (by decide) _, rfl⟩, ⟨_, exec_of_legal (by decide) _, rfl⟩,
    ⟨_, exec_of_legal (by decide) _, rfl⟩, ⟨_, exec_of_legal (by decide) _⟩, rfl⟩

theorem witness_StepKeepsReachable :
    (∃ s t : State, Reachable hw s ∧ s.rxState = .receiving ∧ step s = .next t) ∧
    (∃ s t : State, Reachable narrow s ∧ s.rxState = .receiving ∧ stepConfigured narrow s = .next t) :=
  ⟨⟨{ recvAt false true 64 with input := [0x1000007D#32] }, _, by decide, rfl, rfl⟩,
    ⟨{ recvAt false true 32 with input := [0x1000007D#32] }, _, by decide, rfl, rfl⟩⟩

theorem witness_StepKeepsBufferCanonical :
    (∃ s t : State, Canonical hw s ∧ s.rxState = .receiving ∧ step s = .next t) ∧
    (∃ s t : State, Canonical narrow s ∧ s.rxState = .receiving ∧ stepConfigured narrow s = .next t) :=
  ⟨⟨{ recvAt false true 7 with input := [0x1000007D#32] }, _, nil_wf _ _, rfl, rfl⟩,
    ⟨{ recvAt false true 7 with input := [0x1000007D#32] }, _, nil_wf _ _, rfl, rfl⟩⟩

/-- At the top of the widths. -/
theorem witness_StepKeepsRegistersInTheirWidths :
    (∃ s t : State, Fits hw s ∧ s.shortCnt = 255 ∧ step s = .next t) ∧
    (∃ s t : State, Fits narrow s ∧ s.shortCnt = 127 ∧ stepConfigured narrow s = .next t) :=
  ⟨⟨{ idleAt 255 with input := [0x1000007D#32] }, _, by decide, rfl, rfl⟩,
    ⟨{ idleAt 127 with input := [0x1000007D#32] }, _, by decide, rfl, rfl⟩⟩

/-- A canonical buffer with a byte listed. -/
theorem witness_EqualBuffersAreEqualData :
    ∃ s : State, Canonical hw s ∧ s.mem ≠ [] ∧ SameBuffer hw s s :=
  ⟨{ packetAt with mem := [(3, memUnlisted 0 3 + 1#8)] },
    ⟨by simp, fun c hc => by
      rw [List.mem_singleton.1 hc]
      exact ⟨by decide, fun h => absurd (BitVec.add_right_eq_self.1 h) (by decide)⟩⟩,
    by simp, fun _ _ => rfl⟩

theorem witness_PacketIsFrozenUntilReset :
    packetAt.rxState = .packetReceived ∧
    ∀ i ∈ [Instr.capture 125#28, .readStatus, .nop, .overflow, .readByte 2#3], resetsReceiver i = false := by decide

theorem witness_OnlyCaptureWritesTheBuffer :
    (∃ t : State, exec .rxReset packetAt = .next t) ∧ isCapture .rxReset = false ∧ Instr.rxReset ≠ .powerOnReset :=
  ⟨⟨_, exec_of_legal (by decide) _⟩, rfl, by decide⟩

theorem witness_ConsumerWritesOnlyByReset :
    Legal packetAt ∧ Agent.packetConsumer.mayIssue (.readByte 7#3) = true ∧ Instr.readByte 7#3 ≠ .rxReset ∧
    Instr.nop ≠ .rxReset := by decide

theorem witness_AgentsHaveDisjointOperations :
    ∃ r ∈ opcodeTable hw, r.mnemonic = (Instr.capture 0#28).mnemonic ∧ r.agent = some .edgeTimer := by decide

/-- A list of operations with captures, from the state after a reset. -/
theorem witness_FirstWriteAfterResetNeeds103Captures :
    ∃ s t u : State, execConfigured hw .rxReset s = .next t ∧ runOps hw [.capture 125#28, .rxReset, .capture 250#28] t = .next u ∧
      [Instr.capture 125#28, .rxReset, .capture 250#28].countP isCapture < hw.syncThreshold + 3 ∧
      Instr.powerOnReset ∉ [Instr.capture 125#28, .rxReset, .capture 250#28] :=
  ⟨packetAt, _, _, rfl, rfl, by decide, by decide⟩

/-- Two states with different buffers, one bit before completion. -/
theorem witness_OldBufferBitsAreUnobservableWhenReady :
    ∃ s₁ s₂ t₁ t₂ : State, Reachable hw s₁ ∧ AgreeButBuffer s₁ s₂ ∧ s₁.draws ≠ s₂.draws ∧
      (∀ k, k < hw.pktBits → k < s₁.cursor → packetBit s₁ k = packetBit s₂ k) ∧
      runOps hw [.capture 250#28] s₁ = .next t₁ ∧ runOps hw [.capture 250#28] s₂ = .next t₂ ∧ pktReady t₁ = true := by
  refine ⟨{ recvAt false false 64 with mem := bufferOfC6.mem }, { recvAt false false 64 with mem := bufferOfC6.mem, draws := 1 },
    _, _, by decide, by decide, by decide, fun k hk _ => ?_, rfl, rfl, by decide⟩
  have hk : k < 64 := hk
  interval_cases k <;> decide

theorem witness_EdgeSelDecidesNothing :
    ∃ t : State, runOps hw [.capture 250#28, .readStatus] (idleAt 101) = .next t := ⟨_, rfl⟩

/-- Captures between two reads. -/
theorem witness_ReadsAreTheSameUnderEveryInterleaving :
    packetAt.rxState = .packetReceived ∧
    Interleaving [.capture 5#28, .overflow] [.readByte 2#3, .readStationId]
      [.readByte 2#3, .capture 5#28, .overflow, .readStationId] ∧
    Agent.edgeTimer.streamWellFormed [.capture 5#28, .overflow] = true ∧
    ∀ i ∈ [Instr.readByte 2#3, .readStationId], readsBuffer i = true :=
  ⟨rfl, .right _ (.left _ (.left _ (.right _ .done))), by decide, by decide⟩

theorem witness_AssemblerBitsAreTheEncoding : Accepted hw ∧ hw.tuPerTick = 4 ∧ 8 ≤ hw.tsW ∧ 8 ≤ narrow.tsW := by decide

/-- A preamble of 101 SHORTs, and one of 100, each with its LONG. -/
theorem witness_PreambleLengthDecidesSync :
    (idleAt 0).rxState = .idle ∧ (idleAt 0).shortCnt = 0 ∧
    ∀ n ∈ [100, 101],
      classesFrom hw (idleAt 0).prevTs
        ((List.range n).map (fun k => BitVec.ofNat 28 (125 * (k + 1))) ++ [BitVec.ofNat 28 (125 * n + 250)]) =
      List.replicate ((List.range n).map (fun k => BitVec.ofNat 28 (125 * (k + 1)))).length .short ++ [.long] := by
  decide +kernel

/-- Two bits: a LONG and a pair of SHORTs. -/
theorem witness_ManchesterRoundTrip :
    ∃ s : State, s.rxState = .receiving ∧ s.cursor = 0 ∧ s.pending = false ∧ s.half = false ∧ [true, true].length ≤ hw.pktBits ∧
      classesFrom hw s.prevTs [250#28, 375#28, 500#28] = encodeBits false [true, true] :=
  ⟨recvAt false false 0, rfl, rfl, rfl, rfl, by decide, by decide⟩

/-- 65 alternating bits: 65 LONGs. -/
theorem witness_PacketCompletesAtBit65 :
    ∃ (bits : List Bool) (tss : List TsField) (s : State), s.rxState = .receiving ∧ s.cursor = 0 ∧ s.pending = false ∧
      s.half = false ∧ bits.length = hw.pktBits + 1 ∧ classesFrom hw s.prevTs tss = encodeBits false bits :=
  ⟨(List.range 65).map (fun k => decide (k % 2 = 0)), (List.range 65).map (fun k => BitVec.ofNat 28 (250 * (k + 1))),
    recvAt false false 0, rfl, rfl, rfl, rfl, by decide, by decide +kernel⟩

/-- 130 SHORTs, in a reachable RECEIVING state. -/
theorem witness_ReceivingEndsWithin130Periods :
    Reachable hw (recvAt false false 0) ∧ (recvAt false false 0).rxState = .receiving ∧
    2 * (hw.pktBits + 1) ≤ (classesFrom hw (recvAt false false 0).prevTs
      ((List.range 130).map (fun k => BitVec.ofNat 28 (125 * (k + 1))))).countP (fun c => decide (c ≠ .invalid)) := by
  decide +kernel

/-- The first and the last packet bit, of V-C6's buffer. -/
theorem witness_PktDataIsBigEndian :
    0 < 64 ∧ 63 < 64 ∧ packetBit bufferOfC6 0 = true ∧ packetBit bufferOfC6 63 = false := by decide

theorem witness_SameCycleResetComesBeforeTheEdge :
    Legal packetAt ∧ (⟨false, true, 0x107D#16, true, true⟩ : PortInputs hw).rst = false ∧
    (⟨false, true, 0x107D#16, true, true⟩ : PortInputs hw).rxReset = true ∧
    (⟨false, true, 0x107D#16, true, true⟩ : PortInputs hw).capValid = true := by decide

end Sys2Proof.Tests
end

section
/-! SUPPORT. The decoder on the words `encode` gives (30_encoding R74 to R76, R80). -/

namespace Sys2Proof

@[simp] theorem opField_append (op : BitVec 4) (low : BitVec 28) : opField (op ++ low) = op :=
  BitVec.extractLsb'_append_eq_left

@[simp] theorem tsField_append (op : BitVec 4) (low : BitVec 28) : tsField (op ++ low) = low :=
  BitVec.extractLsb'_append_eq_right

/-- A timestamp that fits in `TS_W` bits sets none of the reserved bits of format T. -/
theorem decodeFormatT_append {c : Params} {ts : TsField} (h : ts.toNat < 2 ^ c.tsW) (op : BitVec 4)
    (f : TsField → Instr) : decodeFormatT c (op ++ ts) f = .ok (f ts) := by
  have hreserved : ts >>> c.tsW = 0#28 :=
    BitVec.eq_of_toNat_eq (by simp [Nat.shiftRight_eq_div_pow, Nat.div_eq_of_lt h])
  simp [decodeFormatT, hreserved]

theorem decodeFormatB_encode_readByte : ∀ idx : ByteIndex,
    decodeFormatB (encode (.readByte idx)) .readByte = .ok (.readByte idx) := by decide

/-- Decoding the word of an operation whose operand fits gives the operation back. -/
theorem decode_encode {c : Params} {i : Instr} (h : i.wellFormed c = true) : decode c (encode i) = .ok i := by
  cases i with
  | capture ts =>
    have hts : ts.toNat < 2 ^ c.tsW := by simpa [Instr.wellFormed] using h
    have hop : opField (encode (.capture ts)) = 1#4 := opField_append 1#4 ts
    simp only [decode, hop]
    exact decodeFormatT_append hts 1#4 .capture
  | readByte idx =>
    have hop : opField (encode (.readByte idx)) = 5#4 := opField_append 5#4 _
    simp only [decode, hop]
    exact decodeFormatB_encode_readByte idx
  | _ => rfl

end Sys2Proof
end

section
/-! SUPPORT. Operations and the presented words: an operation neither reads nor changes `State.input`, and a step on a
presented word is the operation it decodes to (00_scope R11; notes/assumptions/3.md). -/

namespace Sys2Proof.Machine

/-! ### No operation reads or changes the presented words -/

theorem emitBit_withInput (c : Params) (s : State) (b : Bool) (l : List OpWord) :
    emitBit c { s with input := l } b = { emitBit c s b with input := l } := by
  simp only [emitBit_eq, bitWrite_mem]

theorem idleStep_withInput (c : Params) (cl : PulseClass) (s : State) (l : List OpWord) :
    idleStep c cl { s with input := l } = { idleStep c cl s with input := l } := by
  cases cl with
  | short => simp only [idleStep, countShort]; split <;> rfl
  | long => simp only [idleStep, idleLong]; split <;> rfl
  | invalid => rfl

theorem recvStep_withInput (c : Params) (cl : PulseClass) (s : State) (l : List OpWord) :
    recvStep c cl { s with input := l } = { recvStep c cl s with input := l } := by
  cases cl with
  | short =>
    simp only [recvStep, decodeShort, emitBit_withInput]
    split <;> rfl
  | long =>
    simp only [recvStep]
    split
    · rfl
    · exact emitBit_withInput c (flipPending s) (!s.pending) l
  | invalid => rfl

theorem dispatchClass_withInput (c : Params) (cl : PulseClass) (s : State) (l : List OpWord) :
    dispatchClass c cl { s with input := l } = { dispatchClass c cl s with input := l } := by
  obtain ⟨rx⟩ := s
  cases rx with
  | idle => exact idleStep_withInput c cl _ l
  | receiving => exact recvStep_withInput c cl _ l
  | packetReceived => rfl
  | reserved => rfl

theorem effect_withInput (c : Params) (i : Instr) (s : State) (l : List OpWord) :
    effect c i { s with input := l } = { effect c i s with input := l } := by
  cases i with
  | capture ts => exact dispatchClass_withInput c _ (commonUpdate s (timestampOperand c ts)) l
  | _ => rfl

@[simp] theorem effect_input (c : Params) (i : Instr) (s : State) : (effect c i s).input = s.input := by
  have h : effect c i s = { effect c i s with input := s.input } := effect_withInput c i s s.input
  rw [h]

/-! ### A step on a presented word -/

theorem exec_of_not_legal {s : State} (h : ¬ Legal s) (i : Instr) : exec i s = .refused .reservedRxState :=
  (exec_eq i s).trans (if_pos (Decidable.not_not.1 h))

section Presented
variable {s : State} {w : OpWord} {rest : List OpWord} {i : Instr} (hin : s.input = w :: rest)
include hin

theorem stepConfigured_of_decode {c : Params} (hd : decode c w = .ok i) :
    stepConfigured c s = execConfigured c i { s with input := rest } := by
  simp only [stepConfigured, nextOperation, hin, hd]

theorem step_of_decode (hd : decode hw w = .ok i) : step s = exec i { s with input := rest } := by
  rw [← stepConfigured_hw, stepConfigured_of_decode hin hd, execConfigured_hw]

theorem step_of_decode_legal (hd : decode hw w = .ok i) (hl : Legal s) :
    step s = .next (effect hw i { s with input := rest }) :=
  (step_of_decode hin hd).trans (exec_of_legal (s := { s with input := rest }) hl i)

theorem step_of_decode_not_legal (hd : decode hw w = .ok i) (hl : ¬ Legal s) :
    step s = .refused .reservedRxState :=
  (step_of_decode hin hd).trans (exec_of_not_legal (s := { s with input := rest }) hl i)

end Presented

/-! ### A run of the machine by its first step -/

theorem core_run_succ_of_next {s t : State} (h : step s = .next t) (n : Nat) :
    Sys2Proof.core.run (n + 1) s = Sys2Proof.core.run n t := by
  simp only [Host.Core.run, Sys2Proof.core, h]

theorem core_run_succ_of_refused {s : State} {r : Refusal} (h : step s = .refused r) (n : Nat) :
    Sys2Proof.core.run (n + 1) s = .refused r := by
  simp only [Host.Core.run, Sys2Proof.core, h]

end Sys2Proof.Machine
end

section
/-! SUPPORT. Which configurations are refused (00_scope R7; notes/assumptions/9.md), and CAPTURE by receiver state and
class at every configuration, each case as one named update after the common one (41_receive_fsm R120 to R128, 42_bit_decoder
R151 to R154). -/

namespace Sys2Proof.Machine

/-! ### Configurations -/

/-- R7's nine conditions. -/
theorem paramsWellFormed_iff (c : Params) : paramsWellFormed c = true ↔
    c.shortMin ≤ c.shortMax ∧ c.shortMax < c.longMin ∧ c.longMin ≤ c.longMax ∧ c.syncThreshold < 2 ^ c.cntW - 1 ∧
      c.pktBits = 8 * c.pktBytes ∧ c.pktBits + 1 < 2 ^ c.curW ∧ 1 ≤ c.tsW ∧ c.tsW ≤ 28 ∧ 1 ≤ c.tuPerTick := by
  simp [paramsWellFormed, and_assoc]

theorem paramsSymmetric_iff (c : Params) : paramsSymmetric c = true ↔
    c.shortMin + c.shortMax = 2 * 500 ∧ c.longMin + c.longMax = 2 * 1000 := by
  simp [paramsSymmetric]

theorem execConfigured_of_not_wellFormed {c : Params} (h : ¬ paramsWellFormed c = true) (i : Instr) (s : State) :
    execConfigured c i s = .refused .illFormedConfig := if_pos h

theorem execConfigured_of_not_symmetric {c : Params} (hwf : paramsWellFormed c = true)
    (h : ¬ paramsSymmetric c = true) (i : Instr) (s : State) :
    execConfigured c i s = .refused .asymmetricWindows :=
  (if_neg (not_not_intro hwf)).trans (if_pos h)

/-! ### CAPTURE by receiver state and class -/

theorem legal_of_rxState {s : State} {rx : RxState} (hr : s.rxState = rx) (h : rx ≠ .reserved) : Legal s :=
  hr.trans_ne h

theorem countShort_eq (c : Params) (s : State) : countShort c s =
    { s with shortCnt := if s.shortCnt < 2 ^ c.cntW - 1 then s.shortCnt + 1 else s.shortCnt } := by
  unfold countShort; split <;> rfl

/-- When a CAPTURE is a framing error (60_exceptions R201). -/
theorem frameError_ne_none_iff (c : Params) (cl : PulseClass) (s : State) : frameError c cl s ≠ none ↔
    (s.rxState = .idle ∧ cl = .invalid) ∨ (s.rxState = .idle ∧ cl = .long ∧ s.shortCnt ≤ c.syncThreshold) ∨
      (s.rxState = .receiving ∧ cl = .long ∧ s.half = true) := by
  cases hr : s.rxState <;> cases cl <;> simp [frameError, hr]

theorem legal_of_frameError {c : Params} {cl : PulseClass} {s : State} (h : frameError c cl s ≠ none) : Legal s := by
  obtain ⟨hr, -⟩ | ⟨hr, -⟩ | ⟨hr, -⟩ := (frameError_ne_none_iff c cl s).1 h <;>
    exact legal_of_rxState hr (by decide)

section CaptureCases
variable {c : Params} {s : State} {ts : TsField}

theorem effect_capture_idle_short (hr : s.rxState = .idle) (hcl : seenClass c s ts = .short) :
    effect c (.capture ts) s = countShort c (commonUpdate s (timestampOperand c ts)) := by
  rw [effect_capture_idle c ts hr, hcl]; rfl

theorem effect_capture_idle_long_sync (hr : s.rxState = .idle) (hcl : seenClass c s ts = .long)
    (hsync : c.syncThreshold < s.shortCnt) :
    effect c (.capture ts) s = enterReceiving (commonUpdate s (timestampOperand c ts)) := by
  rw [effect_capture_idle c ts hr, hcl]; exact if_pos hsync

/-- Every framing error is the full reset, after the common update (60_exceptions R204). -/
theorem effect_capture_frameError (h : frameError c (seenClass c s ts) s ≠ none) :
    effect c (.capture ts) s = fullReset (commonUpdate s (timestampOperand c ts)) := by
  obtain ⟨hr, hcl⟩ | ⟨hr, hcl, hcnt⟩ | ⟨hr, hcl, hhalf⟩ := (frameError_ne_none_iff c _ s).1 h
  · rw [effect_capture_idle c ts hr, hcl]; rfl
  · rw [effect_capture_idle c ts hr, hcl]; exact if_neg (Nat.not_lt.2 hcnt)
  · rw [effect_capture_receiving c ts hr, hcl]; exact if_pos hhalf

/-- An INVALID in RECEIVING and every class in PACKET_RECEIVED are ignored but for the common update. -/
theorem effect_capture_ignored
    (h : s.rxState = .receiving ∧ seenClass c s ts = .invalid ∨ s.rxState = .packetReceived) :
    effect c (.capture ts) s = commonUpdate s (timestampOperand c ts) := by
  obtain ⟨hr, hcl⟩ | hr := h
  · rw [effect_capture_receiving c ts hr, hcl]; rfl
  · exact effect_capture_packetReceived c ts hr

theorem effect_capture_receiving_short_first (hr : s.rxState = .receiving) (hcl : seenClass c s ts = .short)
    (hhalf : s.half = false) :
    effect c (.capture ts) s = setHalf (commonUpdate s (timestampOperand c ts)) := by
  rw [effect_capture_receiving c ts hr, hcl]
  exact if_neg (Bool.eq_false_iff.1 hhalf)

theorem effect_capture_receiving_short_second (hr : s.rxState = .receiving) (hcl : seenClass c s ts = .short)
    (hhalf : s.half = true) :
    effect c (.capture ts) s = clearHalf (emitBit c (commonUpdate s (timestampOperand c ts)) s.pending) := by
  rw [effect_capture_receiving c ts hr, hcl]
  exact if_pos hhalf

theorem effect_capture_receiving_long (hr : s.rxState = .receiving) (hcl : seenClass c s ts = .long)
    (hhalf : s.half = false) :
    effect c (.capture ts) s = emitBit c (flipPending (commonUpdate s (timestampOperand c ts))) (!s.pending) := by
  rw [effect_capture_receiving c ts hr, hcl]
  exact if_neg (Bool.eq_false_iff.1 hhalf)

end CaptureCases

end Sys2Proof.Machine
end

section
/-! PROOFS. The statements of 00_scope: the step, runs of the machine, and configurations. -/

namespace Sys2Proof

open Sys2Proof.Machine

/-- Settles O1. -/
theorem stepRunsTheDecodedOperation : Obligations.StepRunsTheDecodedOperation :=
  fun _ _ _ _ hin => ⟨step_of_decode hin, fun _ => stepConfigured_of_decode hin⟩

/-- Settles O4, by induction on the operations: a step on the first word is the first operation, which neither reads nor
changes the words after it. In a state that refuses, both sides refuse alike. -/
theorem coreRunPerformsThePresentedOperations : Obligations.CoreRunPerformsThePresentedOperations := by
  intro ops rest
  induction ops with
  | nil => rintro s - rfl; rfl
  | cons i is ih =>
    intro s hwf hwords
    have hin : s.input = encode i :: (is.map encode ++ rest) := hwords
    have hd := decode_encode (hwf i List.mem_cons_self)
    rw [List.length_cons]
    by_cases hl : Legal s
    · have hlegal : Legal { s with input := rest } := hl
      have htail := ih _ (fun j hj => hwf j (List.mem_cons_of_mem i hj)) (effect_input hw i { s with input := _ })
      rw [core_run_succ_of_next (step_of_decode_legal hin hd hl), htail, ← effect_withInput,
        runOps_cons_legal accepted_hw hlegal]
    · have hlegal : ¬ Legal { s with input := rest } := hl
      have hrefused : runOps hw (i :: is) { s with input := rest } = .refused .reservedRxState := by
        rw [runOps_cons, execConfigured_hw, exec_of_not_legal hlegal, andThen_refused]
      exact (core_run_succ_of_refused (step_of_decode_not_legal hin hd hl) _).trans hrefused.symm

/-- Settles O27: the two checks come before the operation, and the default parameters pass both. -/
theorem illFormedConfigurationsAreRefused : Obligations.IllFormedConfigurationsAreRefused := by
  refine ⟨fun c i s h => ?_, fun c i s hwf h => ?_, execConfigured_hw, stepConfigured_hw, rfl⟩
  · exact execConfigured_of_not_wellFormed (mt (paramsWellFormed_iff c).1 h) i s
  · exact execConfigured_of_not_symmetric hwf (mt (paramsSymmetric_iff c).1 h) i s

/-- Settles O37, one clause of CAPTURE's meaning after the other. -/
theorem configuredCaptureFollowsTheParameters : Obligations.ConfiguredCaptureFollowsTheParameters := by
  intro c s ts hc
  have hexec (hl : Legal s) : execConfigured c (.capture ts) s = .next (effect c (.capture ts) s) :=
    execConfigured_of_legal hc hl _
  refine ⟨fun hr hcl => ?_, fun hr hcl hsync => ?_, fun herr => ?_, fun h => ?_, fun hr hcl hhalf => ?_,
    fun hr hcl hhalf => ?_, fun hr hcl hhalf => ?_⟩
  · rw [hexec (legal_of_rxState hr (by decide)), effect_capture_idle_short hr hcl, countShort_eq]; rfl
  · rw [hexec (legal_of_rxState hr (by decide)), effect_capture_idle_long_sync hr hcl hsync]; rfl
  · rw [hexec (legal_of_frameError herr), effect_capture_frameError herr]; rfl
  · have hl : Legal s := by obtain ⟨hr, -⟩ | hr := h <;> exact legal_of_rxState hr (by decide)
    rw [hexec hl, effect_capture_ignored h]; rfl
  · rw [hexec (legal_of_rxState hr (by decide)), effect_capture_receiving_short_first hr hcl hhalf]; rfl
  · refine ⟨_, hexec (legal_of_rxState hr (by decide)), ?_⟩
    rw [effect_capture_receiving_short_second hr hcl hhalf]
    exact ⟨emitBit_emitted c (commonUpdate s _) s.pending, by simp⟩
  · refine ⟨_, hexec (legal_of_rxState hr (by decide)), ?_⟩
    rw [effect_capture_receiving_long hr hcl hhalf]
    exact ⟨emitBit_emitted c (flipPending (commonUpdate s _)) (!s.pending), by simp [hhalf]⟩

end Sys2Proof
end

section
/-! SUPPORT. What one CAPTURE can do, said once: which named update follows the common one, as a function of the class and
of four registers, so that two states alike in those registers are updated alike. And the induction over a run for a relation
between two states. -/

namespace Sys2Proof.Machine

theorem execConfigured_of_not_legal {c : Params} (hc : Accepted c) {s : State} (h : ¬ Legal s) (i : Instr) :
    execConfigured c i s = .refused .reservedRxState :=
  (execConfigured_of_accepted hc i s).trans (if_pos (Decidable.not_not.1 h))

/-! ### The update a CAPTURE of a class makes -/

/-- The registers that choose what a CAPTURE does agree. -/
structure SameControl (s t : State) : Prop where
  rxState : s.rxState = t.rxState
  shortCnt : s.shortCnt = t.shortCnt
  half : s.half = t.half
  prevTs : s.prevTs = t.prevTs

/-- `f` is the update that a CAPTURE of class `cl` makes after the common one, in a state whose registers are those of `s`
(41_receive_fsm R123 to R128, 42_bit_decoder R151 to R153). -/
inductive CaptureAction (c : Params) (s : State) : PulseClass → (State → State) → Prop where
  | count (hr : s.rxState = .idle) : CaptureAction c s .short (countShort c)
  | sync (hr : s.rxState = .idle) (hsync : c.syncThreshold < s.shortCnt) : CaptureAction c s .long enterReceiving
  | reset {cl : PulseClass} (herr : frameError c cl s ≠ none) : CaptureAction c s cl fullReset
  | ignore {cl : PulseClass} (h : s.rxState = .receiving ∧ cl = .invalid ∨ s.rxState = .packetReceived) :
      CaptureAction c s cl id
  | openPair (hr : s.rxState = .receiving) (hhalf : s.half = false) : CaptureAction c s .short setHalf
  | closePair (hr : s.rxState = .receiving) (hhalf : s.half = true) :
      CaptureAction c s .short fun u => emitBit c (clearHalf u) u.pending
  | toggle (hr : s.rxState = .receiving) (hhalf : s.half = false) : CaptureAction c s .long (decodeLong c)

theorem clearHalf_emitBit (c : Params) (s : State) (b : Bool) :
    clearHalf (emitBit c s b) = emitBit c (clearHalf s) b := by
  simp [emitBit_eq, clearHalf, bitWrite_mem]

section Action
variable {c : Params} {s t : State} {ts : TsField}

theorem SameControl.seenClass_eq (h : SameControl s t) : seenClass c t ts = seenClass c s ts := by
  rw [seenClass, seenClass, h.prevTs]

theorem SameControl.frameError_eq (h : SameControl s t) (cl : PulseClass) : frameError c cl t = frameError c cl s := by
  simp only [frameError, h.rxState, h.shortCnt, h.half]

/-- All a CAPTURE can do: in every state alike in the registers that choose, the common update and then one action. -/
theorem effect_capture_action (hl : Legal s) (c : Params) (ts : TsField) :
    ∃ f, CaptureAction c s (seenClass c s ts) f ∧
      ∀ t, SameControl s t → effect c (.capture ts) t = f (commonUpdate t (timestampOperand c ts)) := by
  by_cases herr : frameError c (seenClass c s ts) s = none
  case neg =>
    exact ⟨_, .reset herr, fun t h => effect_capture_frameError (by rwa [h.seenClass_eq, h.frameError_eq])⟩
  rw [← not_ne_iff, frameError_ne_none_iff] at herr
  by_cases hign : s.rxState = .receiving ∧ seenClass c s ts = .invalid ∨ s.rxState = .packetReceived
  · exact ⟨_, .ignore hign, fun t h => effect_capture_ignored (by rwa [h.seenClass_eq, ← h.rxState])⟩
  cases hr : s.rxState with
  | idle =>
    cases hcl : seenClass c s ts with
    | short =>
      exact ⟨_, .count hr, fun t h =>
        effect_capture_idle_short (h.rxState ▸ hr) (h.seenClass_eq.trans hcl)⟩
    | long =>
      have hsync : c.syncThreshold < s.shortCnt := Nat.not_le.1 fun hle => herr (.inr (.inl ⟨hr, hcl, hle⟩))
      exact ⟨_, .sync hr hsync, fun t h =>
        effect_capture_idle_long_sync (h.rxState ▸ hr) (h.seenClass_eq.trans hcl) (h.shortCnt ▸ hsync)⟩
    | invalid => exact absurd (.inl ⟨hr, hcl⟩) herr
  | receiving =>
    cases hcl : seenClass c s ts with
    | short =>
      cases hhalf : s.half with
      | false =>
        exact ⟨_, .openPair hr hhalf, fun t h =>
          effect_capture_receiving_short_first (h.rxState ▸ hr) (h.seenClass_eq.trans hcl) (h.half ▸ hhalf)⟩
      | true =>
        exact ⟨_, .closePair hr hhalf, fun t h =>
          (effect_capture_receiving_short_second (h.rxState ▸ hr) (h.seenClass_eq.trans hcl) (h.half ▸ hhalf)).trans
            (clearHalf_emitBit _ _ _)⟩
    | long =>
      have hhalf : s.half = false := Bool.eq_false_iff.2 fun hset => herr (.inr (.inr ⟨hr, hcl, hset⟩))
      exact ⟨_, .toggle hr hhalf, fun t h =>
        effect_capture_receiving_long (h.rxState ▸ hr) (h.seenClass_eq.trans hcl) (h.half ▸ hhalf)⟩
    | invalid => exact absurd (.inl ⟨hr, hcl⟩) hign
  | packetReceived => exact absurd (.inr hr) hign
  | reserved => exact absurd hr hl

/-- The same of one state. -/
theorem effect_capture_action_self (hl : Legal s) (c : Params) (ts : TsField) :
    ∃ f, CaptureAction c s (seenClass c s ts) f ∧
      effect c (.capture ts) s = f (commonUpdate s (timestampOperand c ts)) := by
  obtain ⟨f, hf, heq⟩ := effect_capture_action hl c ts
  exact ⟨f, hf, heq s ⟨rfl, rfl, rfl, rfl⟩⟩

end Action

/-! ### What steps and runs keep -/

/-- A property that no presented word takes part in and every operation keeps is kept by every step. -/
theorem stepConfigured_keeps {c : Params} {P : State → Prop} (hinput : ∀ s l, P s → P { s with input := l })
    (heffect : ∀ i s, Accepted c → Legal s → P s → P (effect c i s)) {s t : State} (hs : P s)
    (h : stepConfigured c s = .next t) : P t := by
  obtain ⟨i, rest, hexec⟩ := stepConfigured_next_cases h
  obtain ⟨hc, hl, rfl⟩ := execConfigured_next_cases hexec
  exact heffect i _ hc hl (hinput s rest hs)

/-- A relation that every operation keeps holds at the ends of two runs of the same operations, and where one run completes
so does the other. -/
theorem runOps_related {c : Params} {R : State → State → Prop} (hlegal : ∀ s t, R s t → Legal s → Legal t)
    (heffect : ∀ i s t, Accepted c → Legal s → R s t → R (effect c i s) (effect c i t)) {ops : List Instr}
    {s t u : State} (h : R s t) (hrun : runOps c ops s = .next u) : ∃ v, runOps c ops t = .next v ∧ R u v := by
  induction ops generalizing s t with
  | nil =>
    cases hrun
    exact ⟨t, rfl, h⟩
  | cons i is ih =>
    obtain ⟨hc, hl, hrest⟩ := runOps_cons_next hrun
    rw [runOps_cons_legal hc (hlegal s t h hl)]
    exact ih (heffect i s t hc hl h) hrest

end Sys2Proof.Machine
end

section
/-! SUPPORT. Every operation keeps the invariant of the reachable states (10_state R34) and the widths of the registers
(10_state R24, R27, R29). -/

namespace Sys2Proof.Machine

/-! ### The invariant of the reachable states, by receiver state -/

section Invariant
variable {c : Params} {s : State}

theorem reachable_iff_of_idle (h : s.rxState = .idle) : Reachable c s ↔
    (s.cursor = 0 ∧ s.pending = false ∧ s.half = false ∧ s.indicator = false) ∧ s.shortCnt ≤ 2 ^ c.cntW - 1 := by
  simp [Reachable, h]

theorem reachable_iff_of_receiving (h : s.rxState = .receiving) : Reachable c s ↔
    s.shortCnt = 0 ∧ s.cursor ≤ c.pktBits ∧ s.indicator = true := by
  constructor
  · rintro ⟨-, -, hcnt, hrecv, -⟩
    exact ⟨hcnt (by simp [h]), hrecv h⟩
  · rintro ⟨hcnt, hrecv⟩
    simp [Reachable, h, hcnt, hrecv]

theorem reachable_iff_of_packetReceived (h : s.rxState = .packetReceived) : Reachable c s ↔
    s.shortCnt = 0 ∧ s.cursor = c.pktBits + 1 ∧ s.half = false ∧ s.indicator = true := by
  constructor
  · rintro ⟨-, -, hcnt, -, hdone, -⟩
    exact ⟨hcnt (by simp [h]), hdone h⟩
  · rintro ⟨hcnt, hdone⟩
    simp [Reachable, h, hcnt, hdone]

/-- While RECEIVING the invariant speaks of SHORTCNT, CURSOR and INDICATOR alone. -/
theorem reachable_of_receiving_same (h : Reachable c s) (hr : s.rxState = .receiving) {u : State}
    (hu : u.rxState = .receiving) (hcnt : u.shortCnt = s.shortCnt) (hcur : u.cursor = s.cursor)
    (hind : u.indicator = s.indicator) : Reachable c u := by
  rw [reachable_iff_of_receiving hu, hcnt, hcur, hind]
  exact (reachable_iff_of_receiving hr).1 h

theorem reachable_fullReset (c : Params) (s : State) : Reachable c (fullReset s) :=
  (reachable_iff_of_idle rfl).2 (by simp)

theorem reachable_powerOn (c : Params) (s : State) : Reachable c (powerOn c s) :=
  (reachable_iff_of_idle rfl).2 (by simp)

/-- Emit keeps the invariant: CURSOR rises by one without wrapping, and the rise above `PKT_BITS` enters
PACKET_RECEIVED. -/
theorem reachable_emitBit (hc : Accepted c) (hr : s.rxState = .receiving) (hhalf : s.half = false)
    (h : Reachable c s) (b : Bool) : Reachable c (emitBit c s b) := by
  obtain ⟨hcnt, hcur, hind⟩ := (reachable_iff_of_receiving hr).1 h
  obtain ⟨⟨-, -, -, -, -, hbits, -⟩, -⟩ := (accepted_iff c).1 hc
  have hwrap : (s.cursor + 1) % 2 ^ c.curW = s.cursor + 1 := Nat.mod_eq_of_lt (by omega)
  have hrx := emitBit_rxState c s b
  rw [hwrap, hr] at hrx
  split at hrx
  · exact (reachable_iff_of_packetReceived hrx).2 (by simp [hcnt, hhalf, hind, hwrap]; omega)
  · exact (reachable_iff_of_receiving hrx).2 (by simp [hcnt, hind, hwrap]; omega)

theorem CaptureAction.reachable {cl : PulseClass} {f : State → State} (hf : CaptureAction c s cl f)
    (hc : Accepted c) (h : Reachable c s) (ts : Nat) : Reachable c (f (commonUpdate s ts)) := by
  cases hf with
  | count hr =>
    obtain ⟨hidle, hcnt⟩ := (reachable_iff_of_idle hr).1 h
    refine (reachable_iff_of_idle (by simpa)).2 ⟨by simpa, ?_⟩
    rw [countShort_shortCnt]
    split
    case isTrue hlt => exact Nat.succ_le_of_lt hlt
    case isFalse => exact hcnt
  | sync hr =>
    obtain ⟨⟨hcur, -⟩, -⟩ := (reachable_iff_of_idle hr).1 h
    exact (reachable_iff_of_receiving rfl).2 (by simp [hcur])
  | reset => exact reachable_fullReset c _
  | ignore => exact h
  | openPair hr => exact reachable_of_receiving_same h hr hr rfl rfl rfl
  | closePair hr =>
    exact reachable_emitBit (s := clearHalf (commonUpdate s ts)) hc hr rfl
      (reachable_of_receiving_same h hr hr rfl rfl rfl) _
  | toggle hr hhalf =>
    exact reachable_emitBit (s := flipPending (commonUpdate s ts)) hc hr hhalf
      (reachable_of_receiving_same h hr hr rfl rfl rfl) _

/-- Every operation keeps the invariant of the reachable states. -/
theorem reachable_effect (hc : Accepted c) (i : Instr) (h : Reachable c s) : Reachable c (effect c i s) := by
  cases i with
  | capture ts =>
    obtain ⟨f, hf, heq⟩ := effect_capture_action_self h.1 c ts
    rw [heq]
    exact hf.reachable hc h _
  | rxReset => exact reachable_fullReset c s
  | powerOnReset => exact reachable_powerOn c s
  | nop | overflow | readStatus | readByte | readStationId | readPktType => exact h

/-! ### The widths -/

theorem countShort_shortCnt_lt (h : s.shortCnt < 2 ^ c.cntW) : (countShort c s).shortCnt < 2 ^ c.cntW := by
  rw [countShort_shortCnt]
  split <;> omega

theorem fits_emitBit (h : Fits c s) (b : Bool) : Fits c (emitBit c s b) := by
  obtain ⟨hcnt, -, hprev⟩ := h
  exact ⟨by simpa, by simpa using Nat.mod_lt _ (Nat.two_pow_pos _), by simpa⟩

theorem fits_fullReset (h : Fits c s) : Fits c (fullReset s) := by
  obtain ⟨-, -, hprev⟩ := h
  exact ⟨Nat.two_pow_pos _, Nat.two_pow_pos _, hprev⟩

theorem fits_commonUpdate (h : Fits c s) (ts : TsField) : Fits c (commonUpdate s (timestampOperand c ts)) :=
  ⟨h.1, h.2.1, timestampOperand_lt c ts⟩

theorem CaptureAction.fits {cl : PulseClass} {f : State → State} (hf : CaptureAction c s cl f) {u : State}
    (h : Fits c u) : Fits c (f u) := by
  cases hf with
  | count => exact ⟨countShort_shortCnt_lt h.1, by simpa using h.2⟩
  | sync => exact ⟨Nat.two_pow_pos _, h.2⟩
  | reset => exact fits_fullReset h
  | ignore => exact h
  | openPair => exact h
  | closePair => exact fits_emitBit (s := clearHalf u) h _
  | toggle => exact fits_emitBit (s := flipPending u) h _

/-- Every operation keeps every register within its width. -/
theorem fits_effect (hl : Legal s) (i : Instr) (h : Fits c s) : Fits c (effect c i s) := by
  cases i with
  | capture ts =>
    obtain ⟨f, hf, heq⟩ := effect_capture_action_self hl c ts
    rw [heq]
    exact hf.fits (fits_commonUpdate h ts)
  | rxReset => exact fits_fullReset h
  | powerOnReset => exact ⟨Nat.two_pow_pos _, Nat.two_pow_pos _, Nat.two_pow_pos _⟩
  | nop | overflow | readStatus | readByte | readStationId | readPktType => exact h

end Invariant

end Sys2Proof.Machine
end

section
/-! SUPPORT. Two runs of the same operations: from states that differ in EDGE_SEL (10_state R30), and from states that
differ in the bits of BUF at or above CURSOR (10_state R35). -/

namespace Sys2Proof.Machine

/-! ### States that differ in EDGE_SEL and the values returned -/

/-- `t` is `s` but for EDGE_SEL and the values returned. -/
def SameButEdgeSel (s t : State) : Prop := t = { s with edgeSel := t.edgeSel, returns := t.returns }

theorem sameButEdgeSel_update (s : State) (b : Bool) (r : List Byte) :
    SameButEdgeSel s { s with edgeSel := b, returns := r } := rfl

theorem emitBit_withEdgeSel (c : Params) (s : State) (x b : Bool) (r : List Byte) :
    emitBit c { s with edgeSel := b, returns := r } x = { emitBit c s x with edgeSel := b, returns := r } := by
  simp only [emitBit_eq, bitWrite_mem]

theorem CaptureAction.withEdgeSel {c : Params} {s : State} {cl : PulseClass} {f : State → State}
    (hf : CaptureAction c s cl f) (u : State) (b : Bool) (r : List Byte) :
    f { u with edgeSel := b, returns := r } = { f u with edgeSel := b, returns := r } := by
  cases hf with
  | count => simp only [countShort_eq]
  | sync => rfl
  | reset => rfl
  | ignore => rfl
  | openPair => rfl
  | closePair => exact emitBit_withEdgeSel c (clearHalf u) u.pending b r
  | toggle => exact emitBit_withEdgeSel c (flipPending u) (!u.pending) b r

/-- No operation reads EDGE_SEL into anything but EDGE_SEL and the values returned. -/
theorem sameButEdgeSel_effect (c : Params) (i : Instr) {s t : State} (hl : Legal s) (h : SameButEdgeSel s t) :
    SameButEdgeSel (effect c i s) (effect c i t) := by
  obtain ⟨b, r, rfl⟩ : ∃ b r, t = { s with edgeSel := b, returns := r } := ⟨_, _, h⟩
  cases i with
  | capture ts =>
    obtain ⟨f, hf, heq⟩ := effect_capture_action hl c ts
    have hcommute := hf.withEdgeSel (commonUpdate s (timestampOperand c ts)) (!b) r
    rw [heq s ⟨rfl, rfl, rfl, rfl⟩, heq { s with edgeSel := b, returns := r } ⟨rfl, rfl, rfl, rfl⟩]
    exact hcommute ▸ sameButEdgeSel_update _ _ _
  | nop | overflow | rxReset | readStatus | readByte | readStationId | readPktType | powerOnReset => rfl

/-! ### States that differ in the bits of BUF at or above CURSOR -/

/-- Every register but BUF agrees, and so does every packet bit below CURSOR. -/
structure SameWritten (c : Params) (s t : State) : Prop where
  registers : AgreeButBuffer s t
  bits : ∀ k, k < c.pktBits → k < s.cursor → packetBit s k = packetBit t k

section Written
variable {c : Params} {s t : State}

theorem SameWritten.sameControl (h : SameWritten c s t) : SameControl s t := by
  obtain ⟨hrx, hcnt, -, hhalf, -, -, hprev, -⟩ := h.registers
  exact ⟨hrx, hcnt, hhalf, hprev⟩

/-- With CURSOR at 0 no bit is below it. -/
theorem sameWritten_of_cursor_zero (h : AgreeButBuffer s t) (h0 : s.cursor = 0) : SameWritten c s t :=
  ⟨h, fun k _ hk => by omega⟩

/-- An update that leaves BUF and CURSOR alone in both states leaves the bits below CURSOR alone. -/
theorem SameWritten.update (h : SameWritten c s t) {s' t' : State} (hreg : AgreeButBuffer s' t')
    (hcur : s'.cursor = s.cursor) (hs : ∀ k, packetBit s' k = packetBit s k)
    (ht : ∀ k, packetBit t' k = packetBit t k) : SameWritten c s' t' :=
  ⟨hreg, fun k hk hlt => by rw [hs, ht, h.bits k hk (hcur ▸ hlt)]⟩

/-- Emit writes the one bit at CURSOR that comes to be below it, and the same one in both states. -/
theorem SameWritten.emit (h : SameWritten c s t) (b : Bool) : SameWritten c (emitBit c s b) (emitBit c t b) := by
  obtain ⟨hrx, hcnt, hpend, hhalf, hcur, hind, hprev, hsel⟩ := h.registers
  refine ⟨by simp [AgreeButBuffer, emitBit_rxState, hrx, hcnt, hpend, hhalf, hcur, hind, hprev, hsel],
    fun k hk hlt => ?_⟩
  rw [emitBit_cursor] at hlt
  have hle : k < s.cursor + 1 := hlt.trans_le (Nat.mod_le _ _)
  rw [packetBit_emitBit, packetBit_emitBit, ← hcur]
  split
  case isTrue => rfl
  case isFalse hne => exact h.bits k hk (by omega)

theorem CaptureAction.sameWritten {r : State} {cl : PulseClass} {f : State → State} (hf : CaptureAction c r cl f)
    (h : SameWritten c s t) : SameWritten c (f s) (f t) := by
  obtain ⟨hrx, hcnt, hpend, hhalf, hcur, hind, hprev, hsel⟩ := h.registers
  cases hf with
  | count =>
    exact h.update (by simp [AgreeButBuffer, countShort_shortCnt, *]) (by simp) (packetBit_congr (by simp) (by simp))
      (packetBit_congr (by simp) (by simp))
  | sync => exact h.update (by simp [AgreeButBuffer, *]) rfl (fun _ => rfl) (fun _ => rfl)
  | reset => exact sameWritten_of_cursor_zero (by simp [AgreeButBuffer, *]) rfl
  | ignore => exact h
  | openPair => exact h.update (by simp [AgreeButBuffer, *]) rfl (fun _ => rfl) (fun _ => rfl)
  | closePair =>
    simp only [hpend]
    exact (h.update (s' := clearHalf s) (t' := clearHalf t) (by simp [AgreeButBuffer, *]) rfl (fun _ => rfl)
      (fun _ => rfl)).emit t.pending
  | toggle =>
    simp only [decodeLong, flipPending_pending, hpend]
    exact (h.update (s' := flipPending s) (t' := flipPending t) (by simp [AgreeButBuffer, *]) rfl (fun _ => rfl)
      (fun _ => rfl)).emit (!t.pending)

theorem sameWritten_effect (hl : Legal s) (i : Instr) (h : SameWritten c s t) :
    SameWritten c (effect c i s) (effect c i t) := by
  obtain ⟨hrx, hcnt, hpend, hhalf, hcur, hind, hprev, hsel⟩ := h.registers
  cases i with
  | capture ts =>
    obtain ⟨f, hf, heq⟩ := effect_capture_action hl c ts
    rw [heq s ⟨rfl, rfl, rfl, rfl⟩, heq t h.sameControl]
    exact hf.sameWritten (h.update (by simp [AgreeButBuffer, *]) rfl (fun _ => rfl) (fun _ => rfl))
  | rxReset => exact sameWritten_of_cursor_zero (by simp [AgreeButBuffer, effect, *]) rfl
  | powerOnReset => exact sameWritten_of_cursor_zero (by simp [AgreeButBuffer, effect, *]) rfl
  | nop | overflow | readStatus | readByte | readStationId | readPktType =>
    exact h.update h.registers rfl (fun _ => rfl) (fun _ => rfl)

/-- A byte is its eight packet bits (20_memory R51). -/
theorem sameBuffer_of_packetBit_eq (hc : Accepted c) (h : ∀ k, k < c.pktBits → packetBit s k = packetBit t k) :
    SameBuffer c s t := by
  obtain ⟨⟨-, -, -, -, hbits, -⟩, -⟩ := (accepted_iff c).1 hc
  intro i hi
  refine offsetBit_ext fun off hoff => ?_
  have hbit := h (8 * i + off) (by omega)
  rwa [packetBit, packetBit, byteOfBit, offsetOfBit, show (8 * i + off) / 8 = i by omega,
    show (8 * i + off) % 8 = off by omega] at hbit

/-- In PACKET_RECEIVED every packet bit is below CURSOR. -/
theorem SameWritten.sameBuffer (hc : Accepted c) (h : SameWritten c s t) (hreach : Reachable c s)
    (hready : s.rxState = .packetReceived) : SameBuffer c s t := by
  obtain ⟨-, hcur, -⟩ := (reachable_iff_of_packetReceived hready).1 hreach
  exact sameBuffer_of_packetBit_eq hc fun k hk => h.bits k hk (by omega)

end Written

end Sys2Proof.Machine
end

section
/-! PROOFS. The statements of 10_state: the reserved receiver state, the invariants, and what BUF and EDGE_SEL do not
decide. -/

namespace Sys2Proof

open Sys2Proof.Machine

/-- Settles O38: every operation keeps the invariant, and no clause of it speaks of the words presented. -/
theorem stepKeepsReachable : Obligations.StepKeepsReachable := by
  have hconfigured : ∀ (c : Params) (s t : State), Reachable c s → stepConfigured c s = .next t → Reachable c t :=
    fun c s t => stepConfigured_keeps (P := Reachable c) (fun _ _ h => h) fun i _ hc _ h => reachable_effect hc i h
  exact ⟨fun s t hs h => hconfigured hw s t hs ((stepConfigured_hw s).trans h), fun c s t _ => hconfigured c s t⟩

/-- Settles O40: every operation keeps the widths, and none of them is of the words presented. -/
theorem stepKeepsRegistersInTheirWidths : Obligations.StepKeepsRegistersInTheirWidths := by
  have hconfigured : ∀ (c : Params) (s t : State), Fits c s → stepConfigured c s = .next t → Fits c t :=
    fun c s t => stepConfigured_keeps (P := Fits c) (fun _ _ h => h) fun i _ _ hl h => fits_effect hl i h
  exact ⟨fun s t hs h => hconfigured hw s t hs ((stepConfigured_hw s).trans h), fun c s t _ => hconfigured c s t⟩

/-- Settles O49: both runs keep the bits below CURSOR alike, and at the end all bits are below it. -/
theorem oldBufferBitsAreUnobservableWhenReady : Obligations.OldBufferBitsAreUnobservableWhenReady := by
  intro c ops s₁ s₂ t₁ t₂ hc hreach hregs hbits hrun₁ hrun₂ hready
  obtain ⟨v, hv, hreach', hsame⟩ := runOps_related (R := fun s t => Reachable c s ∧ SameWritten c s t)
    (fun s t h hl => by rwa [Legal, ← h.2.registers.1])
    (fun i s t hc hl h => ⟨reachable_effect hc i h.1, sameWritten_effect hl i h.2⟩) ⟨hreach, hregs, hbits⟩ hrun₁
  rw [hrun₂] at hv
  cases hv
  exact hsame.sameBuffer hc hreach' (of_decide_eq_true hready)

/-- Settles O50: every operation keeps two states alike but for EDGE_SEL and the values returned. -/
theorem edgeSelDecidesNothing : Obligations.EdgeSelDecidesNothing := by
  intro c ops s t b hrun
  refine runOps_related (R := SameButEdgeSel) (fun s t h hl => ?_) (fun i s t _ hl h => sameButEdgeSel_effect c i hl h)
    (sameButEdgeSel_update s b s.returns) hrun
  rw [h]
  exact hl

/-- Settles O14: the receiver state is looked at before the operation. -/
theorem reservedReceiverStateIsRefused : Obligations.ReservedReceiverStateIsRefused := by
  intro i s hr
  have hl : ¬ Legal s := not_not_intro hr
  exact ⟨exec_of_not_legal hl i, fun c hc => execConfigured_of_not_legal hc hl i⟩

/-- Settles O41: at any parameters, `State.reset` being the reset state at this hardware's. -/
theorem resetMeetsBothInvariants : Obligations.ResetMeetsBothInvariants := by
  have hreset (c : Params) :
      Reachable c (resetConfigured c) ∧ Canonical c (resetConfigured c) ∧ Fits c (resetConfigured c) :=
    ⟨(reachable_iff_of_idle rfl).2 ⟨⟨rfl, rfl, rfl, rfl⟩, Nat.zero_le _⟩, nil_wf _ _,
      Nat.two_pow_pos _, Nat.two_pow_pos _, Nat.two_pow_pos _⟩
  exact ⟨hreset hw, fun c _ => hreset c⟩

end Sys2Proof
end

section
/-! SUPPORT. What operations do to the packet buffer: which keep its bytes and its canonical form, what a canonical buffer
lists, the bits of the 64-bit view, and what a read and a received packet leave as they were (20_memory R50 to R59). -/

namespace Sys2Proof.Machine

section Buffer
variable {c : Params} {s t : State}

/-! ### What an operation does to the buffer -/

theorem exists_capture_of_isCapture {i : Instr} (h : isCapture i = true) : ∃ ts, i = .capture ts := by
  cases i with
  | capture ts => exact ⟨ts, rfl⟩
  | nop | overflow | rxReset | readStatus | readByte | readStationId | readPktType | powerOnReset => cases h

/-- Only CAPTURE and the power-on reset touch the buffer (20_memory R57). -/
theorem effect_keeps_mem (c : Params) {i : Instr} (hcap : isCapture i = false) (hpor : i ≠ .powerOnReset) (s : State) :
    (effect c i s).mem = s.mem ∧ (effect c i s).draws = s.draws := by
  cases i with
  | capture => cases hcap
  | powerOnReset => exact absurd rfl hpor
  | nop | overflow | rxReset | readStatus | readByte | readStationId | readPktType => exact ⟨rfl, rfl⟩

/-- The bytes after a CAPTURE: as before, or, while RECEIVING, those after one `BitWrite` at the cursor. -/
theorem bufByte_effect_capture (c : Params) (ts : TsField) (s : State) :
    (∀ i, bufByte (effect c (.capture ts) s) i = bufByte s i) ∨
      s.rxState = .receiving ∧
        ∃ b, ∀ i, bufByte (effect c (.capture ts) s) i = bufByte (bitWrite c s s.cursor b) i := by
  obtain ⟨-, -, hdraws, -⟩ := effect_capture_common c ts s
  rcases effect_capture_mem c ts s with hmem | ⟨b, hr, hmem⟩
  · exact .inl (bufByte_congr hdraws hmem)
  · exact .inr ⟨hr, b, bufByte_congr (by rw [hdraws, bitWrite_draws]) hmem⟩

/-- Outside RECEIVING a CAPTURE changes no byte (20_memory R59, 42_bit_decoder R154). -/
theorem bufByte_effect_capture_of_not_receiving (h : s.rxState ≠ .receiving) (ts : TsField) (i : Nat) :
    bufByte (effect c (.capture ts) s) i = bufByte s i := by
  rcases bufByte_effect_capture c ts s with hbytes | ⟨hr, -⟩
  · exact hbytes i
  · exact absurd hr h

/-- A packet bit is a bit of its byte, so states with the same bytes have the same packet bits (20_memory R51). -/
theorem packetBit_of_bufByte_eq (h : ∀ i, bufByte s i = bufByte t i) (k : Nat) : packetBit s k = packetBit t k := by
  rw [packetBit, h, packetBit]

/-- Every operation keeps the buffer's canonical form. -/
theorem canonical_effect (hc : Accepted c) (i : Instr) (h : Canonical c s) : Canonical c (effect c i s) := by
  cases i with
  | capture ts =>
    obtain ⟨⟨-, -, -, -, hbits, -⟩, -⟩ := (accepted_iff c).1 hc
    obtain ⟨-, -, hdraws, -⟩ := effect_capture_common c ts s
    rcases effect_capture_mem c ts s with hmem | ⟨b, -, hmem⟩
    · rwa [Canonical, hdraws, hmem]
    · rw [Canonical, hdraws, hmem, ← bitWrite_draws c s s.cursor b]
      exact bitWrite_wf hbits h
  | powerOnReset => exact nil_wf _ _
  | nop | overflow | rxReset | readStatus | readByte | readStationId | readPktType => exact h

end Buffer

/-! ### What a canonical buffer lists -/

section Listed
variable {size draw : Nat} {m m' : Memory}

theorem memRead_of_not_listed {a : Nat} (h : ∀ cell ∈ m, cell.1 ≠ a) : memRead draw m a = memUnlisted draw a := by
  induction m with
  | nil => rfl
  | cons cell m ih =>
    obtain ⟨b, v⟩ := cell
    obtain ⟨hb, hrest⟩ := List.forall_mem_cons.1 h
    exact (if_neg hb).trans (ih hrest)

theorem memRead_of_listed (hm : m.Pairwise fun x y => x.1 < y.1) {a : Nat} {v : Byte} (h : (a, v) ∈ m) :
    memRead draw m a = v := by
  induction m with
  | nil => cases h
  | cons cell m ih =>
    obtain ⟨b, w⟩ := cell
    obtain ⟨hb, hrest⟩ := List.pairwise_cons.1 hm
    rcases List.mem_cons.1 h with h | h
    · cases h
      exact if_pos rfl
    · exact (if_neg (Nat.ne_of_lt (hb _ h))).trans (ih hrest h)

/-- A canonical buffer lists exactly the bytes that differ from the draw. -/
theorem mem_iff_memRead (hm : Memory.wf size draw m) {a : Nat} {v : Byte} :
    (a, v) ∈ m ↔ memRead draw m a = v ∧ v ≠ memUnlisted draw a := by
  refine ⟨fun h => ⟨memRead_of_listed hm.1 h, (hm.2 _ h).2⟩, ?_⟩
  rintro ⟨rfl, hv⟩
  by_cases hlisted : ∃ cell ∈ m, cell.1 = a
  · obtain ⟨⟨b, w⟩, hmem, rfl⟩ := hlisted
    rwa [memRead_of_listed hm.1 hmem]
  · exact absurd (memRead_of_not_listed fun cell hmem ha => hlisted ⟨cell, hmem, ha⟩) hv

/-- Canonical buffers that read alike within their size are one list: above it both read as the draw. -/
theorem eq_of_memRead_eq (hm : Memory.wf size draw m) (hm' : Memory.wf size draw m')
    (h : ∀ a, a < size → memRead draw m a = memRead draw m' a) : m = m' := by
  have hread (a : Nat) : memRead draw m a = memRead draw m' a := by
    by_cases ha : a < size
    · exact h a ha
    · have hout {l : Memory} (hl : Memory.wf size draw l) : memRead draw l a = memUnlisted draw a :=
        memRead_of_not_listed fun cell hmem heq => ha (heq ▸ (hl.2 cell hmem).1)
      rw [hout hm, hout hm']
  have : Std.Irrefl fun x y : Host.Cell => x.1 < y.1 := ⟨fun x => Nat.lt_irrefl x.1⟩
  refine hm.1.eq_of_mem_iff hm'.1 fun ⟨a, v⟩ => ?_
  rw [mem_iff_memRead hm, mem_iff_memRead hm', hread]

end Listed

/-! ### The 64-bit view -/

/-- Counted from the most significant bit, the bits of the view are those of the bytes in order (20_memory R55). -/
theorem getMsbD_pktData (s : State) {i off : Nat} (hi : i < 8) (hoff : off < 8) :
    (pktData s).getMsbD (8 * i + off) = (bufByte s i).getMsbD off := by
  simp only [pktData, BitVec.getMsbD_append]
  interval_cases i <;> simp (disch := omega) only [if_pos, if_neg] <;> congr 1 <;> omega

theorem offsetBit_eq_getMsbD (v : Byte) {off : Nat} (h : off < 8) : offsetBit v off = v.getMsbD off := by
  simp [offsetBit, BitVec.getMsbD_eq_getLsbD, h]

/-! ### Reads, and a received packet -/

section Frames
variable {c : Params} {s : State}

/-- A read gives one value, which no earlier read takes part in, and changes nothing else (20_memory R57). -/
theorem effect_read (c : Params) {i : Instr} (h : readsBuffer i = true ∨ i = .readStatus) (s : State) :
    ∃ v : Byte, ∀ l, effect c i { s with returns := l } = { s with returns := v :: l } := by
  cases i with
  | readStatus => exact ⟨statusWord s, fun _ => rfl⟩
  | readByte idx => exact ⟨bufByte s idx.toNat, fun _ => rfl⟩
  | readStationId => exact ⟨bufByte s 0, fun _ => rfl⟩
  | readPktType => exact ⟨(packetType s).setWidth 8, fun _ => rfl⟩
  | nop | capture | overflow | rxReset | powerOnReset => simp [readsBuffer] at h

/-- `t` is `s` but for PREV_TS, EDGE_SEL and the values returned: all that a received packet leaves open to change
(41_receive_fsm R128). -/
def SamePacket (s t : State) : Prop := t = { s with prevTs := t.prevTs, edgeSel := t.edgeSel, returns := t.returns }

theorem SamePacket.rxState {s t : State} (h : SamePacket s t) : t.rxState = s.rxState := by rw [h]

theorem SamePacket.trans {s t u : State} (hst : SamePacket s t) (htu : SamePacket t u) : SamePacket s u := by
  rw [SamePacket, htu, hst]

theorem samePacket_effect (hr : s.rxState = .packetReceived) {i : Instr} (hi : resetsReceiver i = false) :
    SamePacket s (effect c i s) := by
  cases i with
  | capture ts => rw [effect_capture_packetReceived c ts hr]; rfl
  | rxReset | powerOnReset => cases hi
  | nop | overflow | readStatus | readByte | readStationId | readPktType => rfl

theorem runOps_samePacket (hc : Accepted c) {ops : List Instr} (hr : s.rxState = .packetReceived)
    (hops : ∀ i ∈ ops, resetsReceiver i = false) : ∃ t, runOps c ops s = .next t ∧ SamePacket s t := by
  induction ops generalizing s with
  | nil => exact ⟨s, rfl, rfl⟩
  | cons i is ih =>
    obtain ⟨hi, his⟩ := List.forall_mem_cons.1 hops
    have hfirst : SamePacket s (effect c i s) := samePacket_effect hr hi
    obtain ⟨t, hrun, hrest⟩ := ih (hfirst.rxState.trans hr) his
    rw [runOps_cons_legal hc (legal_of_rxState hr (by decide))]
    exact ⟨t, hrun, hfirst.trans hrest⟩

end Frames

/-! ### The CAPTUREs before the first write -/

section FirstWrite
variable {c : Params} {n : Nat} {s : State}

/-- What the registers show of at most `n` CAPTUREs since a full reset: in IDLE no more than `n` SHORTs are counted, and
RECEIVING takes a LONG after more than `SYNC_THRESHOLD` of them (41_receive_fsm R124, R125). -/
def WithinCaptures (c : Params) (n : Nat) (s : State) : Prop :=
  s.rxState = .idle ∧ s.shortCnt ≤ n ∨ s.rxState = .receiving ∧ c.syncThreshold + 2 ≤ n

theorem withinCaptures_fullReset (c : Params) (n : Nat) (s : State) : WithinCaptures c n (fullReset s) :=
  .inl ⟨rfl, Nat.zero_le n⟩

/-- With fewer than `SYNC_THRESHOLD + 2` CAPTUREs the sync LONG has not come. -/
theorem WithinCaptures.idle (h : WithinCaptures c n s) (hn : n < c.syncThreshold + 2) :
    s.rxState = .idle ∧ s.shortCnt ≤ n := by
  rcases h with hidle | ⟨-, hle⟩
  · exact hidle
  · omega

/-- One more CAPTURE in IDLE counts a SHORT, syncs or resets. -/
theorem CaptureAction.withinCaptures {cl : PulseClass} {f : State → State} (hf : CaptureAction c s cl f)
    (hr : s.rxState = .idle) (hcnt : s.shortCnt ≤ n) (ts : Nat) : WithinCaptures c (n + 1) (f (commonUpdate s ts)) := by
  cases hf with
  | count =>
    refine .inl ⟨by simpa, ?_⟩
    rw [countShort_shortCnt, commonUpdate_shortCnt]
    split <;> omega
  | sync _ hsync => exact .inr ⟨rfl, by omega⟩
  | reset => exact withinCaptures_fullReset c _ _
  | ignore h => simp [hr] at h
  | openPair hrecv | closePair hrecv | toggle hrecv => simp [hr] at hrecv

theorem withinCaptures_effect_capture (hr : s.rxState = .idle) (hcnt : s.shortCnt ≤ n) (ts : TsField) :
    WithinCaptures c (n + 1) (effect c (.capture ts) s) := by
  obtain ⟨f, hf, heq⟩ := effect_capture_action_self (legal_of_rxState hr (by decide)) c ts
  rw [heq]
  exact hf.withinCaptures hr hcnt _

theorem withinCaptures_effect_of_not_capture {i : Instr} (hcap : isCapture i = false) (hpor : i ≠ .powerOnReset)
    (h : WithinCaptures c n s) : WithinCaptures c n (effect c i s) := by
  cases i with
  | capture => cases hcap
  | powerOnReset => exact absurd rfl hpor
  | rxReset => exact withinCaptures_fullReset c n s
  | nop | overflow | readStatus | readByte | readStationId | readPktType => exact h

/-- A run keeps every byte while its CAPTUREs, with the `n` before it, are fewer than `SYNC_THRESHOLD + 3`: each of them
finds the core in IDLE. -/
theorem runOps_keeps_bufByte {ops : List Instr} {u : State} (h : WithinCaptures c n s) (hrun : runOps c ops s = .next u)
    (hcount : n + ops.countP isCapture < c.syncThreshold + 3) (hpor : .powerOnReset ∉ ops) (a : Nat) :
    bufByte u a = bufByte s a := by
  induction ops generalizing n s with
  | nil =>
    cases hrun
    rfl
  | cons i is ih =>
    obtain ⟨-, -, hrest⟩ := runOps_cons_next hrun
    obtain ⟨hi, his⟩ := List.ne_and_not_mem_of_not_mem_cons hpor
    rw [List.countP_cons] at hcount
    by_cases hcap : isCapture i = true
    · rw [if_pos hcap] at hcount
      obtain ⟨ts, rfl⟩ := exists_capture_of_isCapture hcap
      obtain ⟨hr, hcnt⟩ := h.idle (by omega)
      calc bufByte u a = bufByte (effect c (.capture ts) s) a :=
            ih (withinCaptures_effect_capture hr hcnt ts) hrest (by omega) his
        _ = bufByte s a := bufByte_effect_capture_of_not_receiving (by simp [hr]) ts a
    · have hcap : isCapture i = false := Bool.eq_false_iff.2 hcap
      obtain ⟨hmem, hdraws⟩ := effect_keeps_mem c hcap hi.symm s
      calc bufByte u a = bufByte (effect c i s) a :=
            ih (withinCaptures_effect_of_not_capture hcap hi.symm h) hrest (by omega) his
        _ = bufByte s a := bufByte_congr hdraws hmem a

end FirstWrite

end Sys2Proof.Machine
end

section
/-! PROOFS. The statements of 20_memory: the packet buffer's form, which operations write it and where, when it stands, and
how it is read. -/

namespace Sys2Proof

open Sys2Proof.Machine

/-- Settles O39: every operation keeps the canonical form, and the words presented have no part in it. -/
theorem stepKeepsBufferCanonical : Obligations.StepKeepsBufferCanonical := by
  have hconfigured : ∀ (c : Params) (s t : State), Canonical c s → stepConfigured c s = .next t → Canonical c t :=
    fun c s t => stepConfigured_keeps (P := Canonical c) (fun _ _ h => h) fun i _ hc _ h => canonical_effect hc i h
  exact ⟨fun s t hs h => hconfigured hw s t hs ((stepConfigured_hw s).trans h), fun c s t _ => hconfigured c s t⟩

/-- Settles O35: a CAPTURE is at most one `BitWrite` at the cursor, and that one while RECEIVING. -/
theorem captureWritesOnlyTheCursorByte : Obligations.CaptureWritesOnlyTheCursorByte := by
  intro s t ts h
  obtain ⟨-, rfl⟩ := exec_next_cases h
  rcases bufByte_effect_capture hw ts s with hsame | ⟨hr, b, hwrite⟩
  · exact ⟨fun i _ => hsame i, fun k _ _ => packetBit_of_bufByte_eq hsame k⟩
  · refine ⟨fun i hi => ?_, fun k _ hk => ?_⟩
    · rw [hwrite, bufByte_bitWrite_other hw s s.cursor b (hi hr)]
    · rw [packetBit_of_bufByte_eq hwrite, packetBit_bitWrite, if_neg fun h => hk hr h.2]

/-- Settles O42: a canonical buffer lists exactly the bytes that differ from the draw, in order. -/
theorem equalBuffersAreEqualData : Obligations.EqualBuffersAreEqualData := by
  intro c s t hs ht hdraws hsame
  rw [Canonical, ← hdraws] at ht
  refine eq_of_memRead_eq hs ht fun a ha => ?_
  have hbyte := hsame a ha
  rwa [bufByte, bufByte, ← hdraws] at hbyte

/-- Settles O44: only PREV_TS, EDGE_SEL and the values returned are left open to change. -/
theorem packetIsFrozenUntilReset : Obligations.PacketIsFrozenUntilReset := by
  intro c ops s hc hr hops
  obtain ⟨t, hrun, hsame⟩ := runOps_samePacket hc hr hops
  refine ⟨t, hrun, hsame.rxState.trans hr, ?_⟩
  rw [hsame]
  exact ⟨rfl, rfl, rfl, rfl, rfl, rfl, rfl⟩

/-- Settles O45. -/
theorem onlyCaptureWritesTheBuffer : Obligations.OnlyCaptureWritesTheBuffer := by
  intro i s t h hcap hpor
  obtain ⟨-, rfl⟩ := exec_next_cases h
  obtain ⟨hmem, hdraws⟩ := effect_keeps_mem hw hcap hpor s
  exact bufByte_congr hdraws hmem

/-- Settles O48: `SYNC_THRESHOLD + 1` SHORTs, the sync LONG, and a CAPTURE that writes. -/
theorem firstWriteAfterResetNeeds103Captures : Obligations.FirstWriteAfterResetNeeds103Captures := by
  intro c ops s t u _ hreset hrun hcount hpor a _
  obtain ⟨-, -, rfl⟩ := execConfigured_next_cases hreset
  exact (runOps_keeps_bufByte (withinCaptures_fullReset c 0 s) hrun (by omega) hpor a).symm

/-- Settles O59: packet bit `k` is bit `k` of the view from the most significant end. -/
theorem pktDataIsBigEndian : Obligations.PktDataIsBigEndian := by
  intro s k hk
  have hoff : k % 8 < 8 := Nat.mod_lt _ (by decide)
  calc (pktData s).getLsbD (63 - k) = (pktData s).getMsbD k := by simp [BitVec.getMsbD_eq_getLsbD, hk]
    _ = (pktData s).getMsbD (8 * (k / 8) + k % 8) := by rw [Nat.div_add_mod]
    _ = (bufByte s (k / 8)).getMsbD (k % 8) := getMsbD_pktData s (by omega) hoff
    _ = packetBit s k := (offsetBit_eq_getMsbD _ hoff).symm

/-- Settles O21: the second read finds the state as the first found it, but for the value recorded. -/
theorem readsAreIdempotent : Obligations.ReadsAreIdempotent := by
  intro c i s hc hl hread
  obtain ⟨v, hv⟩ := effect_read c hread s
  have hfirst : effect c i s = { s with returns := v :: s.returns } := hv s.returns
  have hlegal : Legal { s with returns := v :: s.returns } := hl
  exact ⟨v, by rw [runOps_cons_legal hc hl, hfirst, runOps_cons_legal hc hlegal, hv, runOps_nil]⟩

end Sys2Proof
end

section
/-! SUPPORT. The decoder on every word (30_encoding R74 to R76, R79, R80): a word is its op field above its low 28 bits, the
words that decode are those `encode` gives, and the others are the reserved ones. -/

namespace Sys2Proof

/-! ### A word by its fields -/

theorem opField_append_tsField (w : OpWord) : opField w ++ tsField w = w := by
  simp only [opField, tsField, BitVec.extractLsb'_append_extractLsb'_eq_extractLsb' (show 28 = 0 + 28 from rfl),
    BitVec.extractLsb'_eq_self]

theorem reserved_append_idxField (w : OpWord) : w.extractLsb' 3 25 ++ idxField w = tsField w :=
  BitVec.extractLsb'_append_extractLsb'_eq_extractLsb' rfl

theorem opField_toNat (w : OpWord) : (opField w).toNat = w.toNat / 2 ^ 28 := by
  rw [opField, BitVec.extractLsb'_toNat, Nat.shiftRight_eq_div_pow]
  omega

theorem tsField_toNat (w : OpWord) : (tsField w).toNat = w.toNat % 2 ^ 28 := by
  rw [tsField, BitVec.extractLsb'_toNat, Nat.shiftRight_zero]

section Word
variable {c : Params} {w : OpWord}

theorem append_of_fields {op : BitVec 4} {low : BitVec 28} (hop : opField w = op) (hlow : tsField w = low) :
    op ++ low = w := by
  rw [← hop, ← hlow, opField_append_tsField]

theorem encode_readByte_of_fields (hop : opField w = 0x5#4) (hreserved : w.extractLsb' 3 25 = 0#25) :
    encode (.readByte (idxField w)) = w :=
  append_of_fields hop (by rw [← hreserved, reserved_append_idxField])

/-! ### The words that decode -/

theorem encode_of_decodeFormatN {op : BitVec 4} {i j : Instr} (hop : opField w = op) (hj : encode j = op ++ 0#28)
    (hwf : j.wellFormed c = true) (h : decodeFormatN w j = .ok i) : encode i = w ∧ i.wellFormed c = true := by
  unfold decodeFormatN at h
  split at h
  · cases h
    exact ⟨hj.trans (append_of_fields hop ‹_›), hwf⟩
  · cases h

/-- No bit above `TS_W` is set exactly if the timestamp fits. -/
theorem shiftRight_eq_zero_iff (ts : TsField) (n : Nat) : ts >>> n = 0#28 ↔ ts.toNat < 2 ^ n := by
  rw [← BitVec.toNat_inj, BitVec.toNat_ushiftRight, Nat.shiftRight_eq_div_pow, BitVec.toNat_ofNat, Nat.zero_mod,
    Nat.div_eq_zero_iff_lt (Nat.two_pow_pos n)]

theorem encode_of_decodeFormatT {i : Instr} (hop : opField w = 0x1#4) (h : decodeFormatT c w .capture = .ok i) :
    encode i = w ∧ i.wellFormed c = true := by
  unfold decodeFormatT at h
  split at h
  · cases h
    exact ⟨append_of_fields hop rfl, decide_eq_true ((shiftRight_eq_zero_iff _ _).1 ‹_›)⟩
  · cases h

theorem encode_of_decodeFormatB {i : Instr} (hop : opField w = 0x5#4) (h : decodeFormatB w .readByte = .ok i) :
    encode i = w ∧ i.wellFormed c = true := by
  unfold decodeFormatB at h
  split at h
  case isTrue hreserved =>
    cases h
    exact ⟨encode_readByte_of_fields hop hreserved, decide_eq_true (idxField w).isLt⟩
  · cases h

/-- A word that decodes is the word of its operation, whose operand fits. -/
theorem encode_of_decode {i : Instr} (h : decode c w = .ok i) : encode i = w ∧ i.wellFormed c = true := by
  unfold decode at h
  split_ifs at h with h0 h1 h2 h3 h4 h5 h6 h7 hF
  · exact encode_of_decodeFormatN h0 rfl rfl h
  · exact encode_of_decodeFormatT h1 h
  · exact encode_of_decodeFormatN h2 rfl rfl h
  · exact encode_of_decodeFormatN h3 rfl rfl h
  · exact encode_of_decodeFormatN h4 rfl rfl h
  · exact encode_of_decodeFormatB h5 h
  · exact encode_of_decodeFormatN h6 rfl rfl h
  · exact encode_of_decodeFormatN h7 rfl rfl h
  · exact encode_of_decodeFormatN hF rfl rfl h

/-- Decoding and encoding are inverse to each other. -/
theorem decode_eq_ok_iff {i : Instr} : decode c w = .ok i ↔ encode i = w ∧ i.wellFormed c = true := by
  refine ⟨encode_of_decode, ?_⟩
  rintro ⟨rfl, hwf⟩
  exact decode_encode hwf

/-! ### The reserved words -/

/-- The bits below `OP` that may be set are those of the format's operand (30_encoding R74, R79). -/
theorem wordWellFormed_iff : wordWellFormed c w = true ↔
    (w.toNat / 2 ^ 28 = 0x1 ∧ w.toNat % 2 ^ 28 < 2 ^ c.tsW) ∨
    (w.toNat / 2 ^ 28 = 0x5 ∧ w.toNat % 2 ^ 28 < 2 ^ 3) ∨
    (w.toNat / 2 ^ 28 ∈ [0x0, 0x2, 0x3, 0x4, 0x6, 0x7, 0xF] ∧ w.toNat % 2 ^ 28 = 0) := by
  have hop : w.toNat / 2 ^ 28 < 16 := by omega
  simp only [wordWellFormed, List.mem_cons, List.not_mem_nil, or_false]
  split_ifs
  · refine iff_of_false id ?_
    omega
  all_goals rw [decide_eq_true_eq]; omega

/-- Below 8, the low 28 bits set no reserved bit of format B. -/
theorem reserved_eq_zero_of_lt (h : (tsField w).toNat < 2 ^ 3) : w.extractLsb' 3 25 = 0#25 := by
  rw [tsField_toNat] at h
  rw [← BitVec.toNat_inj, BitVec.extractLsb'_toNat, BitVec.toNat_ofNat, Nat.shiftRight_eq_div_pow]
  omega

theorem tsField_encode_readByte_lt : ∀ idx : ByteIndex, (tsField (encode (.readByte idx))).toNat < 2 ^ 3 := by decide

/-- A word decodes exactly if it is not reserved. -/
theorem exists_decode_iff : (∃ i, decode c w = .ok i) ↔ wordWellFormed c w = true := by
  simp only [decode_eq_ok_iff, wordWellFormed_iff, ← opField_toNat, ← tsField_toNat]
  constructor
  · rintro ⟨i, rfl, hwf⟩
    cases i with
    | capture ts => exact .inl ⟨by simp [encode], by simpa [encode, Instr.wellFormed] using hwf⟩
    | readByte idx => exact .inr (.inl ⟨by simp [encode], tsField_encode_readByte_lt idx⟩)
    | nop | overflow | rxReset | readStatus | readStationId | readPktType | powerOnReset =>
      exact .inr (.inr (by decide))
  · rintro (⟨hop, hlow⟩ | ⟨hop, hlow⟩ | ⟨hop, hlow⟩)
    · exact ⟨.capture (tsField w), append_of_fields (BitVec.eq_of_toNat_eq hop) rfl, decide_eq_true hlow⟩
    · exact ⟨.readByte (idxField w),
        encode_readByte_of_fields (BitVec.eq_of_toNat_eq hop) (reserved_eq_zero_of_lt hlow),
        decide_eq_true (idxField w).isLt⟩
    · have hword (op : BitVec 4) (h : (opField w).toNat = op.toNat) : op ++ 0#28 = w :=
        append_of_fields (BitVec.eq_of_toNat_eq h) (BitVec.eq_of_toNat_eq hlow)
      simp only [List.mem_cons, List.not_mem_nil, or_false] at hop
      obtain hop | hop | hop | hop | hop | hop | hop := hop
      · exact ⟨.nop, hword 0x0#4 hop, rfl⟩
      · exact ⟨.overflow, hword 0x2#4 hop, rfl⟩
      · exact ⟨.rxReset, hword 0x3#4 hop, rfl⟩
      · exact ⟨.readStatus, hword 0x4#4 hop, rfl⟩
      · exact ⟨.readStationId, hword 0x6#4 hop, rfl⟩
      · exact ⟨.readPktType, hword 0x7#4 hop, rfl⟩
      · exact ⟨.powerOnReset, hword 0xF#4 hop, rfl⟩

/-- `OP` alone decides whether a word is refused for its op field: no format's check gives that error. -/
theorem decode_eq_reservedOpcode_iff : decode c w = .error .reservedOpcode ↔
    0x8 ≤ w.toNat / 2 ^ 28 ∧ w.toNat / 2 ^ 28 ≤ 0xE := by
  have hN (i : Instr) : decodeFormatN w i ≠ .error .reservedOpcode := by unfold decodeFormatN; split <;> simp
  have hT (f : TsField → Instr) : decodeFormatT c w f ≠ .error .reservedOpcode := by unfold decodeFormatT; split <;> simp
  have hB (f : ByteIndex → Instr) : decodeFormatB w f ≠ .error .reservedOpcode := by unfold decodeFormatB; split <;> simp
  simp only [decode, ite_eq_iff, hN, hT, hB, ← opField_toNat]
  generalize opField w = op
  revert op
  decide

theorem decode_eq_reservedBits (hop : ¬ (0x8 ≤ w.toNat / 2 ^ 28 ∧ w.toNat / 2 ^ 28 ≤ 0xE))
    (h : ¬ wordWellFormed c w = true) : decode c w = .error .reservedBits := by
  cases hd : decode c w with
  | ok i => exact absurd (exists_decode_iff.1 ⟨i, hd⟩) h
  | error e =>
    cases e with
    | reservedOpcode => exact absurd (decode_eq_reservedOpcode_iff.1 hd) hop
    | reservedBits => rfl

end Word

/-! ### The rows of the opcode table -/

section Rows
variable {c : Params} {w : OpWord} {r : OpcodeRow}

theorem wordMatchesRow (i : Instr) : Laws.WordMatchesRow.Statement i := by
  cases i with
  | nop => exact Laws.WordMatchesRow.nop
  | capture ts => exact Laws.WordMatchesRow.capture ts
  | overflow => exact Laws.WordMatchesRow.overflow
  | rxReset => exact Laws.WordMatchesRow.rxReset
  | readStatus => exact Laws.WordMatchesRow.readStatus
  | readByte idx => exact Laws.WordMatchesRow.readByte idx
  | readStationId => exact Laws.WordMatchesRow.readStationId
  | readPktType => exact Laws.WordMatchesRow.readPktType
  | powerOnReset => exact Laws.WordMatchesRow.powerOnReset

/-- A word that decodes selects one row, which has its operation's mnemonic. -/
theorem selected_eq_singleton {i : Instr} (h : decode c w = .ok i) :
    ∃ r, (opcodeTable c).filter (fun r => rowSelects r w) = [r] ∧ r.mnemonic = i.mnemonic := by
  obtain ⟨rfl, hwf⟩ := decode_eq_ok_iff.1 h
  exact List.map_eq_singleton_iff.1 (wordMatchesRow i c hwf)

/-- Under a mask that covers a field, that field of the word is the pattern's. -/
theorem field_of_masked {mask pattern : OpWord} {start len : Nat} (h : w &&& mask = pattern)
    (hmask : mask.extractLsb' start len = BitVec.allOnes len) :
    w.extractLsb' start len = pattern.extractLsb' start len := by
  rw [← h, BitVec.extractLsb'_and, hmask, BitVec.and_allOnes]

/-- CAPTURE's mask covers the reserved bits of format T. -/
theorem captureMask_reserved {i : Nat} (hlow : c.tsW ≤ i) (hhigh : i < 28) : (captureMask c).getLsbD i = true := by
  have hts : (BitVec.ofNat 32 (2 ^ c.tsW - 1)).getLsbD i = false := by
    simp [BitVec.getLsbD_ofNat, Nat.testBit_two_pow_sub_one, Nat.not_lt.2 hlow]
  simp only [captureMask, BitVec.getLsbD_or, BitVec.getLsbD_and, BitVec.getLsbD_not, hts]
  interval_cases i <;> rfl

theorem tsField_lt_of_captureMask (h : w &&& captureMask c = 0x10000000#32) : (tsField w).toNat < 2 ^ c.tsW := by
  refine Nat.lt_pow_two_of_testBit _ fun i hi => ?_
  by_cases h28 : i < 28
  · have hbit : (w &&& captureMask c).getLsbD i = (0x10000000#32).getLsbD i := by rw [h]
    rw [BitVec.getLsbD_and, captureMask_reserved hi h28, Bool.and_true] at hbit
    rw [BitVec.testBit_toNat, tsField, BitVec.getLsbD_extractLsb', Nat.zero_add, hbit]
    interval_cases i <;> rfl
  · exact Nat.testBit_lt_two_pow (Nat.lt_of_lt_of_le (tsField w).isLt (Nat.pow_le_pow_right (by decide) (by omega)))

theorem decode_of_captureRow (h : w &&& captureMask c = 0x10000000#32) :
    decode c w = .ok (.capture (tsField w)) :=
  decode_eq_ok_iff.2 ⟨append_of_fields (Laws.WordMatchesRow.captureRow_opField h) rfl,
    decide_eq_true (tsField_lt_of_captureMask h)⟩

theorem decode_of_readByteRow (h : w &&& 0xFFFFFFF8#32 = 0x50000000#32) :
    decode c w = .ok (.readByte (idxField w)) := by
  have hop : opField w = 0x5#4 := field_of_masked h (by decide)
  have hreserved : w.extractLsb' 3 25 = 0#25 := field_of_masked h (by decide)
  exact decode_eq_ok_iff.2 ⟨encode_readByte_of_fields hop hreserved, decide_eq_true (idxField w).isLt⟩

theorem decode_of_fullMask {i : Instr} (h : w &&& 0xFFFFFFFF#32 = encode i) (hwf : i.wellFormed c = true) :
    decode c w = .ok i :=
  decode_eq_ok_iff.2 ⟨h.symm.trans BitVec.and_allOnes, hwf⟩

/-- A word that selects a row decodes to an operation of that row. -/
theorem exists_decode_of_rowSelects (hr : r ∈ opcodeTable c) (h : rowSelects r w = true) :
    ∃ i, decode c w = .ok i ∧ i.mnemonic = r.mnemonic := by
  replace h : w &&& r.mask = r.pattern := of_decide_eq_true h
  simp only [opcodeTable, List.mem_cons, List.not_mem_nil, or_false] at hr
  obtain rfl | rfl | rfl | rfl | rfl | rfl | rfl | rfl | rfl := hr
  · exact ⟨.nop, decode_of_fullMask h rfl, rfl⟩
  · exact ⟨.capture (tsField w), decode_of_captureRow h, rfl⟩
  · exact ⟨.overflow, decode_of_fullMask h rfl, rfl⟩
  · exact ⟨.rxReset, decode_of_fullMask h rfl, rfl⟩
  · exact ⟨.readStatus, decode_of_fullMask h rfl, rfl⟩
  · exact ⟨.readByte (idxField w), decode_of_readByteRow h, rfl⟩
  · exact ⟨.readStationId, decode_of_fullMask h rfl, rfl⟩
  · exact ⟨.readPktType, decode_of_fullMask h rfl, rfl⟩
  · exact ⟨.powerOnReset, decode_of_fullMask h rfl, rfl⟩

/-- At most one row: both are the single row that the word's operation selects. -/
theorem row_unique {r' : OpcodeRow} (hr : r ∈ opcodeTable c) (hr' : r' ∈ opcodeTable c) (h : rowSelects r w = true)
    (h' : rowSelects r' w = true) : r = r' := by
  obtain ⟨i, hd, -⟩ := exists_decode_of_rowSelects hr h
  obtain ⟨q, hq, -⟩ := selected_eq_singleton hd
  have hmem : r ∈ [q] := hq ▸ List.mem_filter.2 ⟨hr, h⟩
  have hmem' : r' ∈ [q] := hq ▸ List.mem_filter.2 ⟨hr', h'⟩
  rw [List.mem_singleton.1 hmem, List.mem_singleton.1 hmem']

/-- The row of a word's operation. -/
theorem exists_row_of_decode {i : Instr} (h : decode c w = .ok i) :
    ∃ r ∈ opcodeTable c, rowSelects r w = true ∧ r.mnemonic = i.mnemonic := by
  obtain ⟨r, hr, hname⟩ := selected_eq_singleton h
  obtain ⟨hmem, hsel⟩ := List.mem_filter.1 (hr ▸ List.mem_singleton_self r)
  exact ⟨r, hmem, hsel, hname⟩

end Rows

end Sys2Proof
end

section
/-! SUPPORT. A step on a reserved word or on none (30_encoding R71, R79), and the port view: the operations of one clock
cycle, and a reset with an edge in the same cycle (30_encoding R71 to R73). -/

namespace Sys2Proof.Machine

/-! ### A step that performs no presented operation -/

theorem step_of_empty {s : State} (h : s.input = []) : step s = exec .nop s := by
  simp only [step, nextOperation, h]

theorem step_of_decode_error {s : State} {w : OpWord} {rest : List OpWord} {e : DecodeError}
    (hin : s.input = w :: rest) (hd : decode hw w = .error e) : step s = .refused (refusalOf e) := by
  simp only [step, nextOperation, hin, hd]

/-! ### The operations of a clock cycle -/

section Cycle
variable {c : Params}

theorem andThen_pure (o : Outcome) : andThen o .next = o := by cases o <;> rfl

theorem runOps_singleton (i : Instr) (s : State) : runOps c [i] s = execConfigured c i s :=
  andThen_pure (execConfigured c i s)

/-- A strobe's operation: one if it is high, none if not. -/
theorem runOps_strobe (b : Bool) (i : Instr) :
    runOps c (if b then [i] else []) = fun s => if b then execConfigured c i s else .next s := by
  cases b
  · rfl
  · exact funext (runOps_singleton i)

variable {p : PortInputs c}

theorem cycleOps_of_rst (hrst : p.rst = true) : cycleOps p = [.powerOnReset] := if_pos hrst

theorem cycleOps_of_no_strobe (hrst : p.rst = false) (h : (p.rxReset || p.capValid || p.ovfValid) = false) :
    cycleOps p = [.nop] := by
  simp only [Bool.or_eq_false_iff] at h
  obtain ⟨⟨hreset, hcap⟩, hovf⟩ := h
  simp [cycleOps, hrst, hreset, hcap, hovf]

theorem cycleOps_of_strobe (hrst : p.rst = false) (h : (p.rxReset || p.capValid || p.ovfValid) = true) :
    cycleOps p = (if p.rxReset then [Instr.rxReset] else []) ++ (if p.capValid then [portCapture p] else []) ++
      (if p.ovfValid then [Instr.overflow] else []) := by
  have hne : (if p.rxReset then [Instr.rxReset] else []) ++ (if p.capValid then [portCapture p] else []) ++
      (if p.ovfValid then [Instr.overflow] else []) ≠ [] := by
    simp only [Bool.or_eq_true] at h
    obtain (h | h) | h := h <;> simp [h]
  obtain ⟨op, ops, hops⟩ := List.exists_cons_of_ne_nil hne
  simp only [cycleOps, hrst, hops]
  rfl

theorem clockEdge_eq_runOps (p : PortInputs c) (s : State) : clockEdge c p s = runOps c (cycleOps p) s := by
  cases hrst : p.rst with
  | true => rw [cycleOps_of_rst hrst, runOps_singleton, clockEdge, if_pos hrst]
  | false =>
    have hrun : ¬ p.rst = true := Bool.eq_false_iff.1 hrst
    cases hstrobe : p.rxReset || p.capValid || p.ovfValid with
    | true =>
      rw [cycleOps_of_strobe hrst hstrobe, clockEdge, if_neg hrun, if_pos hstrobe]
      simp only [runOps_append, runOps_strobe, andThen_assoc]
    | false =>
      rw [cycleOps_of_no_strobe hrst hstrobe, runOps_singleton, clockEdge, if_neg hrun,
        if_neg (Bool.eq_false_iff.1 hstrobe)]

end Cycle

/-! ### A reset and an edge in one cycle -/

section SameCycle
variable {c : Params}

/-- `cap_ts` is `TS_W` wide, so the CAPTURE it presents has it as its operand. -/
theorem timestampOperand_setWidth (hc : Accepted c) (ts : BitVec c.tsW) :
    timestampOperand c (ts.setWidth 28) = ts.toNat := by
  obtain ⟨⟨-, -, -, -, -, -, -, hw28, -⟩, -⟩ := (accepted_iff c).1 hc
  have hlt : ts.toNat < 2 ^ 28 := Nat.lt_of_lt_of_le ts.isLt (Nat.pow_le_pow_right (by decide) hw28)
  rw [timestampOperand, BitVec.toNat_setWidth, Nat.mod_eq_of_lt hlt, Nat.mod_eq_of_lt ts.isLt]

/-- After a full reset a CAPTURE finds IDLE with no SHORT counted: a SHORT is the first, and any other period resets. -/
theorem effect_capture_fullReset (hc : Accepted c) (s : State) (ts : TsField) :
    effect c (.capture ts) (fullReset s) =
      { commonUpdate (fullReset s) (timestampOperand c ts) with
        shortCnt := if seenClass c s ts = .short then 1 else 0 } := by
  obtain ⟨⟨-, -, -, hsync, -⟩, -⟩ := (accepted_iff c).1 hc
  have hidle : (fullReset s).rxState = .idle := rfl
  cases hcl : seenClass c s ts with
  | short =>
    have hcount : 0 < 2 ^ c.cntW - 1 := by omega
    rw [effect_capture_idle_short hidle hcl, countShort_eq]
    simp [hcount]
  | long => exact effect_capture_frameError ((frameError_ne_none_iff _ _ _).2 (.inr (.inl ⟨hidle, hcl, Nat.zero_le _⟩)))
  | invalid => exact effect_capture_frameError ((frameError_ne_none_iff _ _ _).2 (.inl ⟨hidle, hcl⟩))

/-- The OVERFLOW of a cycle, if there is one, changes nothing. -/
theorem runOps_overflow_strobe (hc : Accepted c) {s : State} (hl : Legal s) (b : Bool) :
    runOps c (if b then [.overflow] else []) s = .next s := by
  simp only [runOps_strobe, execConfigured_of_legal hc hl]
  exact ite_self _

theorem clockEdge_rxReset_capture (hc : Accepted c) {p : PortInputs c} {s : State} (hl : Legal s) (hrst : p.rst = false)
    (hreset : p.rxReset = true) (hcap : p.capValid = true) :
    clockEdge c p s = .next (effect c (portCapture p) (fullReset s)) := by
  have hl' : Legal (fullReset s) := effect_legal c .rxReset hl
  have hops : cycleOps p = .rxReset :: portCapture p :: if p.ovfValid then [Instr.overflow] else [] := by
    rw [cycleOps_of_strobe hrst (by simp [hreset])]
    simp [hreset, hcap]
  calc clockEdge c p s = runOps c (portCapture p :: if p.ovfValid then [Instr.overflow] else []) (fullReset s) := by
        rw [clockEdge_eq_runOps, hops, runOps_cons_legal hc hl]
        rfl
    _ = .next (effect c (portCapture p) (fullReset s)) := by
        rw [runOps_cons_legal hc hl', runOps_overflow_strobe hc (effect_legal c _ hl')]

end SameCycle

end Sys2Proof.Machine
end

section
/-! SUPPORT. The assembler's pulses (30_encoding R82): what CAPTUREs a pseudo-operation expands to, by their classes from the
timestamp cursor, and one after the other. -/

namespace Sys2Proof.Machine

theorem classesFrom_append (c : Params) (prev : Nat) (xs ys : List TsField) :
    classesFrom c prev (xs ++ ys) =
      classesFrom c prev xs ++ classesFrom c ((xs.map (timestampOperand c)).getLastD prev) ys := by
  induction xs generalizing prev with
  | nil => rfl
  | cons ts xs ih => simp only [List.cons_append, List.map_cons, List.getLastD_cons, classesFrom, ih]

/-- The expansion `r`, from timestamp cursor `t`, is CAPTUREs of the given classes, and leaves the cursor at the last of
their timestamps. -/
def Pulses (c : Params) (t : Nat) (r : List Instr × AsmState) (classes : List PulseClass) : Prop :=
  ∃ tss : List TsField, r.1 = captures tss ∧ classesFrom c t tss = classes ∧
    r.2.t = (tss.map (timestampOperand c)).getLastD t

section Assembler
variable {c : Params}

theorem pulses_seq {f g : AsmState → List Instr × AsmState} {a : AsmState} {xs ys : List PulseClass}
    (hf : Pulses c a.t (f a) xs) (hg : Pulses c (f a).2.t (g (f a).2) ys) : Pulses c a.t (asmSeq f g a) (xs ++ ys) := by
  obtain ⟨tss, hcap, hcl, hlast⟩ := hf
  obtain ⟨tss', hcap', hcl', hlast'⟩ := hg
  refine ⟨tss ++ tss', ?_, ?_, ?_⟩
  · simp [asmSeq, hcap, hcap', captures]
  · rw [classesFrom_append, ← hlast, hcl, hcl']
  · rw [hlast] at hlast'
    simp [asmSeq, hlast']

/-- `X d` is one CAPTURE, `d` ticks after the cursor. -/
theorem pulses_edge (hc : Accepted c) {d : Nat} (hd : d < 2 ^ c.tsW) (a : AsmState) :
    Pulses c a.t (asmEdge c d a) [classify c (d * c.tuPerTick)] := by
  obtain ⟨⟨-, -, -, -, -, -, -, hw28, -⟩, -⟩ := (accepted_iff c).1 hc
  have hlt : (a.t + d) % 2 ^ c.tsW < 2 ^ c.tsW := Nat.mod_lt _ (two_pow_tsW_pos c)
  have hle : 2 ^ c.tsW ≤ 2 ^ 28 := Nat.pow_le_pow_right (by decide) hw28
  have hts : timestampOperand c (BitVec.ofNat 28 ((a.t + d) % 2 ^ c.tsW)) = (a.t + d) % 2 ^ c.tsW := by
    rw [timestampOperand, BitVec.toNat_ofNat, Nat.mod_eq_of_lt (Nat.lt_of_lt_of_le hlt hle), Nat.mod_mod]
  refine ⟨[BitVec.ofNat 28 ((a.t + d) % 2 ^ c.tsW)], rfl, ?_, hts.symm⟩
  rw [classesFrom, hts, captureClass, tickDelta_add, Nat.mod_eq_of_lt hd]
  rfl

section QuarterTick
variable (hc : Accepted c) (htu : c.tuPerTick = 4) (hw8 : 8 ≤ c.tsW)
include hc htu hw8

/-- 125 ticks are 500 time units, the middle of the SHORT window. -/
theorem pulses_short (a : AsmState) : Pulses c a.t (asmShort c a) [.short] := by
  obtain ⟨⟨hshort, -⟩, hsym, -⟩ := (accepted_iff c).1 hc
  have hcl : classify c (125 * c.tuPerTick) = .short := by rw [htu]; exact if_pos (by omega)
  have hfit : 2 ^ 8 ≤ 2 ^ c.tsW := Nat.pow_le_pow_right (by decide) hw8
  exact hcl ▸ pulses_edge hc (by omega) a

/-- 250 ticks are 1000 time units, the middle of the LONG window. -/
theorem pulses_long (a : AsmState) : Pulses c a.t (asmLong c a) [.long] := by
  obtain ⟨⟨-, hgap, hlong, -⟩, -, hsym⟩ := (accepted_iff c).1 hc
  have hcl : classify c (250 * c.tuPerTick) = .long := by
    rw [htu]
    exact (if_neg (by omega)).trans (if_pos (by omega))
  have hfit : 2 ^ 8 ≤ 2 ^ c.tsW := Nat.pow_le_pow_right (by decide) hw8
  exact hcl ▸ pulses_edge hc (by omega) a

theorem pulses_bits (bs : List Bool) (a : AsmState) : Pulses c a.t (asmBits c bs a) (encodeBits a.pending bs) := by
  induction bs generalizing a with
  | nil => exact ⟨[], rfl, rfl, rfl⟩
  | cons b bs ih =>
    by_cases hb : b = a.pending
    · have hpair := pulses_seq (pulses_short hc htu hw8 a) (pulses_short hc htu hw8 (asmShort c a).2)
      have hseq := pulses_seq hpair (ih (asmSeq (asmShort c) (asmShort c) a).2)
      rw [asmBits, encodeBits, if_pos hb, if_pos hb]
      exact hseq
    · have hflip : b = !a.pending := Bool.eq_not.2 hb
      have hseq := pulses_seq (pulses_long hc htu hw8 { a with pending := !a.pending }) (ih _)
      rw [asmBits, encodeBits, if_neg hb, if_neg hb, hflip]
      exact hseq

end QuarterTick

/-- After `BITS` the copy of PENDING is the last bit: each bit equals it or inverts it. -/
theorem asmBits_pending (c : Params) (bs : List Bool) (a : AsmState) :
    (asmBits c bs a).2.pending = bs.getLastD a.pending := by
  induction bs generalizing a with
  | nil => rfl
  | cons b bs ih =>
    rw [asmBits, List.getLastD_cons]
    split
    case isTrue hb =>
      rw [hb]
      exact ih _
    case isFalse hb =>
      have hflip : b = !a.pending := Bool.eq_not.2 hb
      rw [hflip]
      exact ih _

end Assembler

end Sys2Proof.Machine
end

section
/-! PROOFS. The statements of 30_encoding: the operation word, reserved words, the assembler's bits, and the port view. -/

namespace Sys2Proof

open Sys2Proof.Machine

/-- Settles O5. -/
theorem decodeOfEncodeIsTheOperation : Obligations.DecodeOfEncodeIsTheOperation :=
  fun _ _ => decode_encode

/-- Settles O3: a word that is not reserved by its `OP` and does not decode is reserved by its other bits. -/
theorem reservedWordsAreRefused : Obligations.ReservedWordsAreRefused := by
  intro s w rest hin
  have hbits (hop : ¬ (0x8 ≤ w.toNat / 2 ^ 28 ∧ w.toNat / 2 ^ 28 ≤ 0xE)) (h : ¬ wordWellFormed hw w = true) :
      step s = .refused .reservedBits := step_of_decode_error hin (decode_eq_reservedBits hop h)
  simp only [wordWellFormed_iff, hw_tsW, List.mem_cons, List.not_mem_nil, or_false] at hbits ⊢
  refine ⟨fun hlo hhi => ?_, fun hop hlow => ?_, fun hop hlow => ?_, fun hop hlow => ?_⟩
  · exact step_of_decode_error hin (decode_eq_reservedOpcode_iff.2 ⟨hlo, hhi⟩)
  · exact hbits (by omega) (by omega)
  · exact hbits (by omega) (by omega)
  · exact hbits (by omega) (by omega)

/-- Settles O6. -/
theorem encodeOfDecodeIsTheWord : Obligations.EncodeOfDecodeIsTheWord :=
  fun _ _ _ => encode_of_decode

/-- Settles O7. -/
theorem decoderAcceptsExactlyTheUnreservedWords : Obligations.DecoderAcceptsExactlyTheUnreservedWords :=
  fun _ _ => exists_decode_iff

/-- Settles O8: a word that selects a row is a word of that row's operation, and an operation's word selects one row. -/
theorem decoderAgreesWithTheOpcodeTable : Obligations.DecoderAgreesWithTheOpcodeTable :=
  ⟨fun _ _ _ _ => row_unique, fun _ _ _ => exists_decode_of_rowSelects, fun _ _ _ => exists_row_of_decode, by decide⟩

/-- Settles O56. -/
theorem assemblerBitsAreTheEncoding : Obligations.AssemblerBitsAreTheEncoding := by
  intro c bs a hc htu hw8
  obtain ⟨tss, hcaptures, hclasses, hlast⟩ := pulses_bits hc htu hw8 bs a
  exact ⟨tss, hcaptures, hclasses, hlast, asmBits_pending c bs a⟩

/-- Settles O57. -/
theorem clockEdgePerformsTheListedOperations : Obligations.ClockEdgePerformsTheListedOperations :=
  fun _ => clockEdge_eq_runOps

/-- Settles O58: the cycle is a CAPTURE after a full reset, and an OVERFLOW after them changes nothing. -/
theorem sameCycleResetComesBeforeTheEdge : Obligations.SameCycleResetComesBeforeTheEdge := by
  intro c p s hc hl hrst hreset hcap
  rw [clockEdge_rxReset_capture hc hl hrst hreset hcap, portCapture, effect_capture_fullReset hc,
    seenClass, timestampOperand_setWidth hc]
  rfl

/-- Settles O2. -/
theorem stepWithNothingPresentedIsNop : Obligations.StepWithNothingPresentedIsNop :=
  fun _ => step_of_empty

/-- Settles O9: sixteen words, each evaluated. -/
theorem sampleWordsDecodeAsTheSpecSays : Obligations.SampleWordsDecodeAsTheSpecSays := by
  unfold Obligations.SampleWordsDecodeAsTheSpecSays
  decide

/-- Settles O60: each read records the value that its ports are defined to carry. -/
theorem portsCarryWhatReadsReturn : Obligations.PortsCarryWhatReadsReturn :=
  fun _ _ hl => ⟨exec_of_legal hl _, exec_of_legal hl _, exec_of_legal hl _, exec_of_legal hl _⟩

end Sys2Proof
end

section
/-! SUPPORT. The classifier at every configuration: the difference of two timestamps, the width of the period, and when a
period has each class (40_classifier R100 to R105). And that OVERFLOW takes no part in what follows it. -/

namespace Sys2Proof.Machine

/-! ### From two timestamps to the period -/

/-- `tickDelta` subtracts within the natural numbers; as an integer it is the wrapped difference (40_classifier R100). -/
theorem tickDelta_eq_emod (c : Params) (ts prev : Nat) :
    (tickDelta c ts prev : Int) = ((ts : Int) - (prev : Int)) % 2 ^ c.tsW := by
  have hle : prev % 2 ^ c.tsW ≤ 2 ^ c.tsW := (Nat.mod_lt prev (two_pow_tsW_pos c)).le
  have hprev : (2 ^ c.tsW : Int) * (prev / 2 ^ c.tsW) + prev % 2 ^ c.tsW = prev := Int.mul_ediv_add_emod _ _
  calc (tickDelta c ts prev : Int) = (ts + (2 ^ c.tsW - prev % 2 ^ c.tsW)) % 2 ^ c.tsW := by
        rw [tickDelta]; push_cast [hle]; rfl
    _ = ((ts - prev) + 2 ^ c.tsW * (prev / 2 ^ c.tsW + 1)) % 2 ^ c.tsW := by
        congr 1; linear_combination -hprev
    _ = (ts - prev) % 2 ^ c.tsW := Int.add_mul_emod_self_left _ _ _

theorem le_two_pow_ceilLog2 (n : Nat) : n ≤ 2 ^ ceilLog2 n := by
  unfold ceilLog2
  split
  case isTrue hpow => exact hpow.ge
  case isFalse => exact Nat.lt_log2_self.le

/-- No product of a difference is truncated in `P_W` bits (00_scope R8). -/
theorem period_lt (c : Params) {delta : Nat} (htu : 1 ≤ c.tuPerTick) (hdelta : delta < 2 ^ c.tsW) :
    period c delta < 2 ^ periodWidth c :=
  calc delta * c.tuPerTick < 2 ^ c.tsW * c.tuPerTick := Nat.mul_lt_mul_of_pos_right hdelta htu
    _ ≤ 2 ^ c.tsW * 2 ^ ceilLog2 c.tuPerTick := Nat.mul_le_mul_left _ (le_two_pow_ceilLog2 _)
    _ = 2 ^ periodWidth c := (Nat.pow_add _ _ _).symm

/-! ### From the period to the class -/

section Windows
variable {c : Params}

theorem classify_eq_short_iff (p : Nat) : classify c p = .short ↔ c.shortMin ≤ p ∧ p ≤ c.shortMax := by
  unfold classify
  split
  case isTrue hshort => simp [hshort]
  case isFalse hshort => split <;> simp [hshort]

theorem classify_eq_invalid_iff (p : Nat) : classify c p = .invalid ↔
    ¬ (c.shortMin ≤ p ∧ p ≤ c.shortMax) ∧ ¬ (c.longMin ≤ p ∧ p ≤ c.longMax) := by
  unfold classify
  split
  case isTrue hshort => simp [hshort]
  case isFalse hshort => split <;> simp [*]

variable (hgap : c.shortMax < c.longMin)
include hgap

/-- SHORT's window ends below LONG's (00_scope R7). -/
theorem windows_disjoint (p : Nat) :
    ¬ ((c.shortMin ≤ p ∧ p ≤ c.shortMax) ∧ (c.longMin ≤ p ∧ p ≤ c.longMax)) := by
  rintro ⟨⟨-, hshort⟩, hlong, -⟩
  exact absurd (hlong.trans hshort) (Nat.not_le.2 hgap)

/-- LONG is tested second, and loses no period of its window to SHORT. -/
theorem classify_eq_long_iff (p : Nat) : classify c p = .long ↔ c.longMin ≤ p ∧ p ≤ c.longMax := by
  unfold classify
  split
  case isTrue hshort => simpa using fun hlong hle => windows_disjoint hgap p ⟨hshort, hlong, hle⟩
  case isFalse => split <;> simp [*]

end Windows

theorem hw_windows_apart : hw.shortMax < hw.longMin := by decide

/-! ### OVERFLOW -/

/-- What refuses one operation, the configuration or the receiver state, refuses every operation alike. -/
theorem exists_refusal_of_not_accepted_legal {c : Params} {s : State} (h : ¬ (Accepted c ∧ Legal s)) :
    ∃ r, ∀ i, execConfigured c i s = .refused r := by
  by_cases hwf : paramsWellFormed c = true
  case neg => exact ⟨_, fun i => execConfigured_of_not_wellFormed hwf i s⟩
  by_cases hsym : paramsSymmetric c = true
  case neg => exact ⟨_, fun i => execConfigured_of_not_symmetric hwf hsym i s⟩
  have hc : Accepted c := Bool.and_eq_true_iff.2 ⟨hwf, hsym⟩
  exact ⟨_, execConfigured_of_not_legal hc fun hl => h ⟨hc, hl⟩⟩

/-- OVERFLOW before an operation takes no part in the run, in a state that refuses too (41_receive_fsm R130). -/
theorem runOps_overflow_cons (c : Params) (i : Instr) (is : List Instr) (s : State) :
    runOps c (.overflow :: i :: is) s = runOps c (i :: is) s := by
  by_cases h : Accepted c ∧ Legal s
  case pos => exact runOps_cons_legal h.1 h.2 .overflow (i :: is)
  case neg =>
    obtain ⟨r, hr⟩ := exists_refusal_of_not_accepted_legal h
    rw [runOps_cons, runOps_cons, hr, hr, andThen_refused, andThen_refused]

end Sys2Proof.Machine
end

section
/-! PROOFS. The statements of 40_classifier: the difference, the period, the windows, and what every CAPTURE updates. -/

namespace Sys2Proof

open Sys2Proof.Machine

/-- Settles O22. -/
theorem classifyFollowsTheWindows : Obligations.ClassifyFollowsTheWindows :=
  fun p => ⟨classify_eq_short_iff p, classify_eq_long_iff hw_windows_apart p, classify_eq_invalid_iff p⟩

/-- Settles O23: a difference of `d` ticks is a period of `4 * d` time units, and each row of the table is the window of
its class in ticks. -/
theorem tickWindowsOfTheClasses : Obligations.TickWindowsOfTheClasses := by
  refine ⟨fun c prev ts => tickDelta_eq_emod c ts prev, fun prev ts => ?_⟩
  rw [captureClass, period, hw_tuPerTick]
  generalize tickDelta hw ts prev = d
  obtain ⟨hshort, hlong, hinvalid⟩ := classifyFollowsTheWindows (d * 4)
  split_ifs
  · exact hinvalid.2 (by omega)
  · exact hshort.2 (by omega)
  · exact hinvalid.2 (by omega)
  · exact hlong.2 (by omega)
  · exact hinvalid.2 (by omega)

/-- Settles O24: the power of two at or above `TU_PER_TICK` bounds the product. -/
theorem periodIsExactInItsWidth : Obligations.PeriodIsExactInItsWidth :=
  ⟨by decide, fun c _ htu hdelta => ⟨rfl, period_lt c htu hdelta⟩⟩

/-- Settles O25: the difference of timestamps `g` ticks apart is `g mod 2^TS_W`. -/
theorem gapsAliasModuloTheCounter : Obligations.GapsAliasModuloTheCounter := by
  refine ⟨fun c prev g => ?_, fun c s ts => runOps_overflow_cons c (.capture ts) [] s⟩
  rw [captureClass, tickDelta_add]

/-- Settles O26: of disjoint windows a period is in one, and the class names it whichever is tested first. -/
theorem wellFormedWindowsAreDisjoint : Obligations.WellFormedWindowsAreDisjoint := by
  intro c p hwf
  obtain ⟨-, hgap, -⟩ := (paramsWellFormed_iff c).1 hwf
  refine ⟨windows_disjoint hgap p, ?_⟩
  split_ifs with hlong hshort
  · exact (classify_eq_long_iff hgap p).2 hlong
  · exact (classify_eq_short_iff p).2 hshort
  · exact (classify_eq_invalid_iff p).2 ⟨hshort, hlong⟩

/-- Settles O28: the common update comes first, and no action after it, a full reset included, touches these fields. -/
theorem captureUpdatesPrevTsAndEdgeSel : Obligations.CaptureUpdatesPrevTsAndEdgeSel :=
  fun s ts hl => ⟨_, exec_of_legal hl _, effect_capture_common hw ts s⟩

end Sys2Proof
end

section
/-! SUPPORT. The receive state machine at every configuration: how RXSTATE moves (41_receive_fsm R132), a run of SHORTs in
IDLE (R124), and the periods that decoding takes in RECEIVING (R133). -/

namespace Sys2Proof.Machine

/-! ### Operations that change nothing, and the full reset twice -/

theorem effect_of_nop_or_overflow {i : Instr} (h : i = .nop ∨ i = .overflow) (c : Params) (s : State) :
    effect c i s = s := by
  obtain rfl | rfl := h <;> rfl

@[simp] theorem fullReset_fullReset (s : State) : fullReset (fullReset s) = fullReset s := (rfl)

/-- A second full reset takes no part in the run, in a state that refuses too (41_receive_fsm R122). -/
theorem runOps_rxReset_twice (c : Params) (is : List Instr) (s : State) :
    runOps c (.rxReset :: .rxReset :: is) s = runOps c (.rxReset :: is) s := by
  by_cases h : Accepted c ∧ Legal s
  case pos =>
    obtain ⟨hc, hl⟩ := h
    rw [runOps_cons_legal hc hl, runOps_cons_legal hc (effect_legal c .rxReset hl), runOps_cons_legal hc hl]
    simp only [effect, fullReset_fullReset]
  case neg =>
    obtain ⟨r, hr⟩ := exists_refusal_of_not_accepted_legal h
    rw [runOps_cons, runOps_cons, hr, andThen_refused, andThen_refused]

/-! ### The transitions of RXSTATE -/

theorem effect_rxState_of_not_capture (c : Params) {i : Instr} (hcap : isCapture i = false) (s : State) :
    (effect c i s).rxState = if resetsReceiver i then .idle else s.rxState := by
  cases i with
  | capture => cases hcap
  | nop | overflow | rxReset | readStatus | readByte | readStationId | readPktType | powerOnReset => rfl

section Transitions
variable {c : Params} {s : State} {ts : TsField}

theorem effect_capture_idle_invalid (hr : s.rxState = .idle) (hcl : seenClass c s ts = .invalid) :
    effect c (.capture ts) s = fullReset (commonUpdate s (timestampOperand c ts)) :=
  effect_capture_frameError ((frameError_ne_none_iff _ _ _).2 (.inl ⟨hr, hcl⟩))

theorem effect_capture_idle_long_reset (hr : s.rxState = .idle) (hcl : seenClass c s ts = .long)
    (hcnt : s.shortCnt ≤ c.syncThreshold) :
    effect c (.capture ts) s = fullReset (commonUpdate s (timestampOperand c ts)) :=
  effect_capture_frameError ((frameError_ne_none_iff _ _ _).2 (.inr (.inl ⟨hr, hcl, hcnt⟩)))

theorem effect_capture_receiving_long_midPair (hr : s.rxState = .receiving) (hcl : seenClass c s ts = .long)
    (hhalf : s.half = true) :
    effect c (.capture ts) s = fullReset (commonUpdate s (timestampOperand c ts)) :=
  effect_capture_frameError ((frameError_ne_none_iff _ _ _).2 (.inr (.inr ⟨hr, hcl, hhalf⟩)))

theorem effect_capture_rxState_idle (hr : s.rxState = .idle) : (effect c (.capture ts) s).rxState =
    if seenClass c s ts = .long ∧ c.syncThreshold < s.shortCnt then .receiving else .idle := by
  cases hcl : seenClass c s ts with
  | short => simp [effect_capture_idle_short hr hcl, hr]
  | long =>
    by_cases hsync : c.syncThreshold < s.shortCnt
    · simp [effect_capture_idle_long_sync hr hcl hsync, hsync]
    · simp [effect_capture_idle_long_reset hr hcl (Nat.not_lt.1 hsync), hsync]
  | invalid => simp [effect_capture_idle_invalid hr hcl]

theorem effect_capture_rxState_receiving (hr : s.rxState = .receiving) : (effect c (.capture ts) s).rxState =
    if seenClass c s ts = .invalid then .receiving
    else if seenClass c s ts = .long ∧ s.half = true then .idle
    else if seenClass c s ts = .short ∧ s.half = false then .receiving
    else if c.pktBits < (s.cursor + 1) % 2 ^ c.curW then .packetReceived else .receiving := by
  cases hcl : seenClass c s ts with
  | invalid => simp [effect_capture_ignored (.inl ⟨hr, hcl⟩), hr]
  | short =>
    cases hhalf : s.half with
    | false => simp [effect_capture_receiving_short_first hr hcl hhalf, hr]
    | true => simp [effect_capture_receiving_short_second hr hcl hhalf, emitBit_rxState, hr]
  | long =>
    cases hhalf : s.half with
    | false => simp [effect_capture_receiving_long hr hcl hhalf, emitBit_rxState, hr]
    | true => simp [effect_capture_receiving_long_midPair hr hcl hhalf]

theorem effect_capture_rxState_packetReceived (hr : s.rxState = .packetReceived) :
    (effect c (.capture ts) s).rxState = .packetReceived := by
  rw [effect_capture_packetReceived c ts hr, commonUpdate_rxState, hr]

/-- A CAPTURE that is no framing error leaves the core in IDLE only as a counted SHORT (41_receive_fsm R132). -/
theorem idle_short_of_effect_capture_idle (hl : Legal s) (herr : frameError c (seenClass c s ts) s = none)
    (hidle : (effect c (.capture ts) s).rxState = .idle) : s.rxState = .idle ∧ seenClass c s ts = .short := by
  rw [← not_ne_iff, frameError_ne_none_iff] at herr
  cases hr : s.rxState with
  | idle =>
    rw [effect_capture_rxState_idle hr] at hidle
    cases hcl : seenClass c s ts with
    | short => exact ⟨rfl, rfl⟩
    | long =>
      have hsync : c.syncThreshold < s.shortCnt := Nat.not_le.1 fun hle => herr (.inr (.inl ⟨hr, hcl, hle⟩))
      simp [hcl, hsync] at hidle
    | invalid => exact absurd (.inl ⟨hr, hcl⟩) herr
  | receiving =>
    have hpair : ¬ (seenClass c s ts = .long ∧ s.half = true) := fun h => herr (.inr (.inr ⟨hr, h⟩))
    rw [effect_capture_rxState_receiving hr, if_neg hpair] at hidle
    split_ifs at hidle
  | packetReceived =>
    rw [effect_capture_rxState_packetReceived hr] at hidle
    cases hidle
  | reserved => exact absurd hr hl

/-! ### Runs of CAPTUREs -/

@[simp] theorem captures_cons (ts : TsField) (tss : List TsField) :
    captures (ts :: tss) = .capture ts :: captures tss := (rfl)

/-- The classes of a run of CAPTUREs, the first seen in the state before it and the others from the state after it. -/
theorem classesFrom_cons (c : Params) (s : State) (ts : TsField) (tss : List TsField) :
    classesFrom c s.prevTs (ts :: tss) =
      seenClass c s ts :: classesFrom c (effect c (.capture ts) s).prevTs tss := by
  rw [(effect_capture_common c ts s).1]
  rfl

/-- SHORTs in IDLE, before any other CAPTUREs: all they do but for the common update is to count, up to `2^CNT_W - 1`. -/
theorem runOps_captures_shorts (hc : Accepted c) {tss rest : List TsField} {classes : List PulseClass}
    (hr : s.rxState = .idle)
    (hcl : classesFrom c s.prevTs (tss ++ rest) = List.replicate tss.length .short ++ classes) :
    ∃ t, runOps c (captures (tss ++ rest)) s = runOps c (captures rest) t ∧ t.rxState = .idle ∧
      t.cursor = s.cursor ∧ t.shortCnt = max s.shortCnt (min (s.shortCnt + tss.length) (2 ^ c.cntW - 1)) ∧
      classesFrom c t.prevTs rest = classes := by
  induction tss generalizing s with
  | nil => exact ⟨s, rfl, hr, rfl, by simp, hcl⟩
  | cons ts tss ih =>
    rw [List.cons_append, classesFrom_cons, List.length_cons, List.replicate_succ, List.cons_append] at hcl
    obtain ⟨hshort, hrest⟩ := List.cons.inj hcl
    have hfirst := effect_capture_idle_short hr hshort
    obtain ⟨t, hrun, hidle, hcur, hcnt, hclasses⟩ := ih (by simp [hfirst, hr]) hrest
    refine ⟨t, ?_, hidle, by simp [hcur, hfirst], ?_, hclasses⟩
    · rw [List.cons_append, captures_cons, runOps_cons_legal hc (legal_of_rxState hr (by decide)), hrun]
    · rw [hcnt, hfirst, countShort_shortCnt, commonUpdate_shortCnt, List.length_cons]
      split <;> omega

end Transitions

/-! ### The periods that RECEIVING takes -/

section Decoding
variable {c : Params} {s : State}

/-- How many SHORTs the decoding so far is worth: two for each decoded bit, which a LONG decodes alone, and one for an open
pair (42_bit_decoder R151, R152). -/
def decodedHalves (s : State) : Nat := 2 * s.cursor + s.half.toNat

theorem decodedHalves_lt (h : Reachable c s) (hr : s.rxState = .receiving) :
    decodedHalves s < 2 * (c.pktBits + 1) := by
  obtain ⟨-, hcur, -⟩ := (reachable_iff_of_receiving hr).1 h
  have hhalf := Bool.toNat_le s.half
  unfold decodedHalves
  omega

/-- While RECEIVING lasts, every SHORT or LONG decodes at least one half of a bit. -/
theorem CaptureAction.decodedHalves_le {cl : PulseClass} {f : State → State} (hf : CaptureAction c s cl f)
    (hc : Accepted c) (h : Reachable c s) (hr : s.rxState = .receiving) (ts : Nat)
    (hr' : (f (commonUpdate s ts)).rxState = .receiving) :
    decodedHalves s + [cl].countP (fun cl => decide (cl ≠ .invalid)) ≤ decodedHalves (f (commonUpdate s ts)) := by
  obtain ⟨-, hcur, -⟩ := (reachable_iff_of_receiving hr).1 h
  obtain ⟨⟨-, -, -, -, -, hbits, -⟩, -⟩ := (accepted_iff c).1 hc
  have hwrap : (s.cursor + 1) % 2 ^ c.curW = s.cursor + 1 := Nat.mod_eq_of_lt (by omega)
  cases hf with
  | count hidle | sync hidle => simp [hr] at hidle
  | reset => cases hr'
  | ignore hign =>
    obtain ⟨-, rfl⟩ | hdone := hign
    · exact Nat.le_refl _
    · simp [hr] at hdone
  | openPair _ hhalf => simp [decodedHalves, hhalf]
  | closePair _ hhalf =>
    simp [decodedHalves, hhalf, hwrap]
    omega
  | toggle _ hhalf => simp [decodedHalves, decodeLong, hhalf, hwrap]

/-- With the SHORT and LONG periods that a packet takes at most, RECEIVING ends after one of the CAPTUREs. -/
theorem exists_receiving_ends (hc : Accepted c) {tss : List TsField} (h : Reachable c s) (hr : s.rxState = .receiving)
    (hcount : 2 * (c.pktBits + 1) ≤
      decodedHalves s + (classesFrom c s.prevTs tss).countP (fun cl => decide (cl ≠ .invalid))) :
    ∃ (n : Nat) (t : State), n ≤ tss.length ∧ runOps c (captures (tss.take n)) s = .next t ∧
      t.rxState ≠ .receiving := by
  induction tss generalizing s with
  | nil => exact absurd hcount (Nat.not_le.2 (decodedHalves_lt h hr))
  | cons ts tss ih =>
    have hcons (n : Nat) : runOps c (captures ((ts :: tss).take (n + 1))) s =
        runOps c (captures (tss.take n)) (effect c (.capture ts) s) := runOps_cons_legal hc h.1 _ _
    by_cases hr' : (effect c (.capture ts) s).rxState = .receiving
    case neg => exact ⟨1, _, by simp, hcons 0, hr'⟩
    obtain ⟨f, hf, heq⟩ := effect_capture_action_self h.1 c ts
    have hmore := hf.decodedHalves_le hc h hr (timestampOperand c ts) (heq ▸ hr')
    rw [← heq] at hmore
    rw [classesFrom_cons, ← List.singleton_append, List.countP_append] at hcount
    obtain ⟨n, t, hn, hrun, hend⟩ := ih (reachable_effect hc _ h) hr' (by omega)
    exact ⟨n + 1, t, Nat.succ_le_succ hn, (hcons n).trans hrun, hend⟩

end Decoding

end Sys2Proof.Machine
end

section
/-! PROOFS. The statements of 41_receive_fsm: the receive state machine. -/

namespace Sys2Proof

open Sys2Proof.Machine

/-- Settles O16, by induction on the operations: each one leaves the state as it is. -/
theorem noEdgeMeansNoChange : Obligations.NoEdgeMeansNoChange := by
  intro c ops s hc hl hops
  induction ops with
  | nil => rfl
  | cons i is ih =>
    obtain ⟨hi, his⟩ := List.forall_mem_cons.1 hops
    rw [runOps_cons_legal hc hl, effect_of_nop_or_overflow hi, ih his]

/-- Settles O34: an error is the shared full reset, and only a SHORT counted in IDLE ends there without one. -/
theorem framingErrorsResetWithinTheCapture : Obligations.FramingErrorsResetWithinTheCapture := by
  intro s ts hl
  refine ⟨frameError_ne_none_iff hw _ s, fun herr => ?_, fun herr => ?_⟩
  · rw [exec_of_legal hl, effect_capture_frameError herr]
    rfl
  · exact ⟨_, exec_of_legal hl _, idle_short_of_effect_capture_idle hl herr⟩

/-- Settles O36: the transitions at any parameters, at this hardware's. -/
theorem receiverStateTransitions : Obligations.ReceiverStateTransitions := by
  intro i s t h
  obtain ⟨-, rfl⟩ := exec_next_cases h
  refine ⟨fun hcap => effect_rxState_of_not_capture hw hcap s, ?_⟩
  rintro ts rfl
  exact ⟨effect_capture_rxState_idle, effect_capture_rxState_receiving, effect_capture_rxState_packetReceived⟩

/-- Settles O52: the SHORTs count up to the counter's limit, which is above `SYNC_THRESHOLD`, and the LONG compares. -/
theorem preambleLengthDecidesSync : Obligations.PreambleLengthDecidesSync := by
  intro c tss last s hc hr hcl
  obtain ⟨⟨-, -, -, hlimit, -⟩, -⟩ := (accepted_iff c).1 hc
  obtain ⟨u, hrun, hidle, hcur, hcnt, hlast⟩ := runOps_captures_shorts hc hr hcl
  have hlong : seenClass c u last = .long := List.head_eq_of_cons_eq hlast
  have hrun : runOps c (captures (tss ++ [last])) s = .next (effect c (.capture last) u) :=
    hrun.trans (runOps_cons_legal hc (legal_of_rxState hidle (by decide)) _ [])
  refine ⟨fun hmany => ⟨_, hrun, ?_⟩, fun hfew hzero => ⟨_, hrun, ?_⟩⟩
  · have hsync : c.syncThreshold < u.shortCnt := by omega
    simp [effect_capture_idle_long_sync hidle hlong hsync, hcur]
  · have hshort : u.shortCnt ≤ c.syncThreshold := by omega
    simp [effect_capture_idle_long_reset hidle hlong hshort]

/-- Settles O55: every SHORT or LONG decodes at least one half of the `PKT_BITS + 1` bits. -/
theorem receivingEndsWithin130Periods : Obligations.ReceivingEndsWithin130Periods :=
  fun _ _ _ hc h hr hcount => exists_receiving_ends hc h hr (hcount.trans (Nat.le_add_left _ _))

/-- Settles O12: the shared full reset, in every legal state. -/
theorem rxResetIsAFullReset : Obligations.RxResetIsAFullReset :=
  fun _ hl => exec_of_legal hl .rxReset

/-- Settles O13: at any parameters and in any state, refused or not. -/
theorem fullResetIsIdempotent : Obligations.FullResetIsIdempotent :=
  fun c s => runOps_rxReset_twice c [] s

/-- Settles O15: in a legal state both have the effect of doing nothing. -/
theorem nopAndOverflowChangeNothing : Obligations.NopAndOverflowChangeNothing :=
  fun _ hl => ⟨exec_of_legal hl .nop, exec_of_legal hl .overflow⟩

/-- Settles O29: the counter's limit `2^CNT_W - 1` is 255 on this hardware. -/
theorem idleShortCountsSaturating : Obligations.IdleShortCountsSaturating := by
  intro s ts hr hcl
  rw [exec_of_legal (legal_of_rxState hr (by decide)), effect_capture_idle_short hr hcl, countShort_eq]
  rfl

/-- Settles O30: a LONG with no more than `SYNC_THRESHOLD` SHORTs counted is a framing error. -/
theorem idleLongSyncsOrResets : Obligations.IdleLongSyncsOrResets := by
  intro s ts hr hcl
  rw [exec_of_legal (legal_of_rxState hr (by decide))]
  refine ⟨fun hsync => ?_, fun hshort => ?_⟩
  · rw [effect_capture_idle_long_sync hr hcl hsync]
    rfl
  · rw [effect_capture_idle_long_reset hr hcl hshort]
    rfl

/-- Settles O31: the common update, and no action after it. -/
theorem ignoredPeriodsChangeNothingElse : Obligations.IgnoredPeriodsChangeNothingElse := by
  intro s ts h
  have hl : Legal s := by obtain ⟨hr, -⟩ | hr := h <;> exact legal_of_rxState hr (by decide)
  rw [exec_of_legal hl, effect_capture_ignored h]
  rfl

end Sys2Proof
end

section
/-! SUPPORT. The decoder on the encoding of a bit string, at every configuration: what the CAPTUREs of one bit do, and the
induction over the bits (42_bit_decoder R154 to R157). -/

namespace Sys2Proof.Machine

section Bits
variable {c : Params} {n : Nat} {p b : Bool} {s : State} {bits : List Bool} {tss : List TsField}

/-- Between two bits of a packet: `n` bits are decoded, PENDING is `p` and no pair of SHORTs is open. The packet is complete
once there are more than `PKT_BITS` (42_bit_decoder R155). -/
structure AtBit (c : Params) (n : Nat) (p : Bool) (s : State) : Prop where
  rxState : s.rxState = if c.pktBits < n then .packetReceived else .receiving
  cursor : s.cursor = n
  pending : s.pending = p
  half : s.half = false

theorem AtBit.receiving (h : AtBit c n p s) (hn : n ≤ c.pktBits) : s.rxState = .receiving :=
  h.rxState.trans (if_neg (Nat.not_lt.2 hn))

/-- CURSOR does not wrap: `CUR_W` bits hold `PKT_BITS + 1` (00_scope R7). -/
theorem AtBit.emitBit (hc : Accepted c) (h : AtBit c n b s) (hn : n ≤ c.pktBits) : AtBit c (n + 1) b (emitBit c s b) := by
  obtain ⟨⟨-, -, -, -, -, hbits, -⟩, -⟩ := (accepted_iff c).1 hc
  have hwrap : (s.cursor + 1) % 2 ^ c.curW = n + 1 := by rw [h.cursor, Nat.mod_eq_of_lt (by omega)]
  exact ⟨by rw [emitBit_rxState, hwrap, h.receiving hn], by rw [emitBit_cursor, hwrap], by rw [emitBit_pending, h.pending],
    by rw [emitBit_half, h.half]⟩

theorem AtBit.packetBit_emitBit (h : AtBit c n p s) {k : Nat} (hk : k < c.pktBits) (b : Bool) :
    packetBit (Machine.emitBit c s b) k = if k = n then b else packetBit s k := by
  obtain ⟨-, -, hwritten, -⟩ := emitBit_emitted c s b
  rw [hwritten k hk, h.cursor]

/-- The first of a run of CAPTUREs, by the classes the run sees. -/
theorem runOps_captures_of_classesFrom_cons (hc : Accepted c) (hl : Legal s) {cl : PulseClass} {classes : List PulseClass}
    (h : classesFrom c s.prevTs tss = cl :: classes) :
    ∃ ts rest, seenClass c s ts = cl ∧
      runOps c (captures tss) s = runOps c (captures rest) (effect c (.capture ts) s) ∧
      classesFrom c (effect c (.capture ts) s).prevTs rest = classes := by
  cases tss with
  | nil => cases h
  | cons ts rest =>
    rw [classesFrom_cons] at h
    obtain ⟨hcl, hclasses⟩ := List.cons.inj h
    exact ⟨ts, rest, hcl, runOps_cons_legal hc hl _ _, hclasses⟩

/-- The CAPTUREs of one encoded bit, a pair of SHORTs or one LONG, come down to one `Emit` of it. The state `u` it is emitted
in has that bit in PENDING, and the packet bits of before. -/
theorem exists_emitBit_of_encodeBits_cons (hc : Accepted c) (h : AtBit c n p s) (hn : n ≤ c.pktBits)
    (hcl : classesFrom c s.prevTs tss = encodeBits p (b :: bits)) :
    ∃ u rest, AtBit c n b u ∧ (∀ k, packetBit u k = packetBit s k) ∧
      runOps c (captures tss) s = runOps c (captures rest) (emitBit c u b) ∧
      classesFrom c (emitBit c u b).prevTs rest = encodeBits b bits := by
  have hr := h.receiving hn
  have hlegal {v : State} (hv : v.rxState = .receiving) : Legal v := legal_of_rxState hv (by decide)
  by_cases hb : b = p
  case pos =>
    subst hb
    rw [encodeBits, if_pos rfl] at hcl
    obtain ⟨ts₁, tss₁, hshort₁, hrun₁, hcl₁⟩ := runOps_captures_of_classesFrom_cons hc (hlegal hr) hcl
    rw [effect_capture_receiving_short_first hr hshort₁ h.half] at hrun₁ hcl₁
    have hr₁ : (setHalf (commonUpdate s (timestampOperand c ts₁))).rxState = .receiving := hr
    obtain ⟨ts₂, rest, hshort₂, hrun₂, hcl₂⟩ := runOps_captures_of_classesFrom_cons hc (hlegal hr₁) hcl₁
    have hpair := effect_capture_receiving_short_second hr₁ hshort₂ rfl
    rw [clearHalf_emitBit, setHalf_pending, commonUpdate_pending, h.pending] at hpair
    rw [hpair] at hrun₂ hcl₂
    refine ⟨_, rest, ?_, fun k => ?_, hrun₁.trans hrun₂, hcl₂⟩
    · exact ⟨h.rxState, h.cursor, h.pending, rfl⟩
    · rfl
  case neg =>
    obtain rfl : b = !p := Bool.eq_not.2 hb
    rw [encodeBits, if_neg hb] at hcl
    obtain ⟨ts, rest, hlong, hrun, hrest⟩ := runOps_captures_of_classesFrom_cons hc (hlegal hr) hcl
    rw [effect_capture_receiving_long hr hlong h.half, h.pending] at hrun hrest
    refine ⟨_, rest, ?_, fun k => ?_, hrun, hrest⟩
    · exact ⟨h.rxState, h.cursor, congrArg (!·) h.pending, h.half⟩
    · rfl

/-- The decoder inverts the encoding from any bit of a packet on, up to the `PKT_BITS + 1`st: the bits before stay, and the
encoded ones come after them, as far as the buffer goes. -/
theorem runOps_captures_encodeBits (hc : Accepted c) (h : AtBit c n p s) (hlen : n + bits.length ≤ c.pktBits + 1)
    (hcl : classesFrom c s.prevTs tss = encodeBits p bits) :
    ∃ t, runOps c (captures tss) s = .next t ∧ AtBit c (n + bits.length) (bits.getLastD p) t ∧
      ∀ k, k < c.pktBits → packetBit t k = if k < n then packetBit s k else bits.getD (k - n) (packetBit s k) := by
  induction bits generalizing n p s tss with
  | nil =>
    cases tss with
    | nil => exact ⟨s, rfl, h, by simp⟩
    | cons => cases hcl
  | cons b bits ih =>
    rw [List.length_cons] at hlen
    have hn : n ≤ c.pktBits := by omega
    obtain ⟨u, rest, hu, hsame, hrun, hrest⟩ := exists_emitBit_of_encodeBits_cons hc h hn hcl
    obtain ⟨t, hrun', ht, hbits⟩ := ih (hu.emitBit hc hn) (by omega) hrest
    refine ⟨t, hrun.trans hrun', ?_, fun k hk => ?_⟩
    · rwa [List.length_cons, List.getLastD_cons, ← Nat.add_assoc, Nat.add_right_comm]
    · rw [hbits k hk, hu.packetBit_emitBit hk, hsame]
      obtain hlt | rfl | hgt := Nat.lt_trichotomy k n
      · simp [hlt, hlt.ne, Nat.lt_succ_of_lt hlt]
      · simp
      · rw [if_neg (by omega), if_neg hgt.ne', if_neg hgt.not_gt, show k - n = k - (n + 1) + 1 by omega,
          List.getD_cons_succ]

/-- The same of a whole packet, from the state that sync entry leaves. -/
theorem runOps_captures_encodeBits_of_start (hc : Accepted c) (hr : s.rxState = .receiving) (hcur : s.cursor = 0)
    (hpend : s.pending = false) (hhalf : s.half = false) (hlen : bits.length ≤ c.pktBits + 1)
    (hcl : classesFrom c s.prevTs tss = encodeBits false bits) :
    ∃ t, runOps c (captures tss) s = .next t ∧ AtBit c bits.length (bits.getLastD false) t ∧
      ∀ k, k < c.pktBits → packetBit t k = bits.getD k (packetBit s k) := by
  simpa using runOps_captures_encodeBits hc (n := 0) ⟨by simp [hr], hcur, hpend, hhalf⟩ (by omega) hcl

end Bits

end Sys2Proof.Machine
end

section
/-! PROOFS. The statements of 42_bit_decoder: the bits the decoder emits, and whole packets. -/

namespace Sys2Proof

open Sys2Proof.Machine

/-- Settles O32: two clauses of CAPTURE's meaning under any parameters, at this hardware's. -/
theorem receivingShortPairsAndEmits : Obligations.ReceivingShortPairsAndEmits := by
  intro s ts hr hcl
  obtain ⟨-, -, -, -, hopen, hclose, -⟩ := configuredCaptureFollowsTheParameters hw s ts accepted_hw
  rw [execConfigured_hw] at hopen hclose
  exact ⟨hopen hr hcl, hclose hr hcl⟩

/-- Settles O33: one clause of CAPTURE's meaning under any parameters, at this hardware's. -/
theorem receivingLongTogglesAndEmits : Obligations.ReceivingLongTogglesAndEmits := by
  intro s ts hr hcl hhalf
  obtain ⟨-, -, -, -, -, -, htoggle⟩ := configuredCaptureFollowsTheParameters hw s ts accepted_hw
  obtain ⟨t, hexec, hemit, hhalf', hpend, hcommon⟩ := htoggle hr hcl hhalf
  exact ⟨t, (execConfigured_hw _ s).symm.trans hexec, hemit, hpend, hhalf', hcommon⟩

/-- Settles O53: with no more than `PKT_BITS` bits decoded the core is still RECEIVING. -/
theorem manchesterRoundTrip : Obligations.ManchesterRoundTrip := by
  intro c bits tss s hc hr hcur hpend hhalf hlen hcl
  obtain ⟨t, hrun, ht, hbits⟩ :=
    runOps_captures_encodeBits_of_start hc hr hcur hpend hhalf (Nat.le_succ_of_le hlen) hcl
  exact ⟨t, hrun, ht.receiving hlen, ht.cursor, ht.half, ht.pending, hbits⟩

/-- Settles O54: bit `PKT_BITS + 1` completes the packet, and every bit of the buffer is one of those before it. -/
theorem packetCompletesAtBit65 : Obligations.PacketCompletesAtBit65 := by
  intro c bits tss s hc hr hcur hpend hhalf hlen hcl
  obtain ⟨t, hrun, ht, hbits⟩ := runOps_captures_encodeBits_of_start hc hr hcur hpend hhalf hlen.le hcl
  refine ⟨t, hrun, ht.rxState.trans (if_pos (by omega)), ht.cursor.trans hlen, ht.half, ht.pending, fun k hk => ?_⟩
  have hlt : k < bits.length := by omega
  rw [hbits k hk, List.getD_eq_getElem _ _ hlt, List.getElem?_eq_getElem hlt]

end Sys2Proof
end

section
/-! SUPPORT. The values the consumer's reads give, field by field: the status word (30_encoding R78) and the packet type
(43_consumer_ops R173). -/

namespace Sys2Proof.Machine

/-! ### The status word -/

/-- Each field stands where R78 puts it, whatever the four fields hold; bits [7:5] are 0. -/
theorem statusWord_fields (s : State) :
    (statusWord s).extractLsb' 0 2 = rxCode s.rxState ∧ (statusWord s).getLsbD 2 = pktReady s ∧
    (statusWord s).getLsbD 3 = s.indicator ∧ (statusWord s).getLsbD 4 = s.edgeSel ∧
    (statusWord s).extractLsb' 5 3 = 0b000#3 := by
  unfold statusWord
  generalize rxCode s.rxState = code, pktReady s = ready, s.indicator = ind, s.edgeSel = sel
  revert code ready ind sel
  decide

/-- The code of RXSTATE in a state the core can be in (10_state R23). -/
theorem rxCode_of_legal {s : State} (hl : Legal s) : rxCode s.rxState =
    if s.rxState = .idle then 0b00#2 else if s.rxState = .receiving then 0b01#2 else 0b10#2 := by
  cases h : s.rxState with
  | idle | receiving | packetReceived => rfl
  | reserved => exact absurd h hl

/-! ### The packet type -/

/-- The packet type is the low 4 bits of byte 1 (20_memory R52). -/
theorem packetType_toNat (s : State) : (packetType s).toNat = (bufByte s 1).toNat % 16 := by
  simp [packetType]

end Sys2Proof.Machine
end

section
/-! PROOFS. The statements of 43_consumer_ops: what each read gives, with every register left as it is. -/

namespace Sys2Proof

open Sys2Proof.Machine

/-- Settles O17: the value is the status word, whose RXSTATE field has one of the three codes. -/
theorem readStatusReturnsTheStatusWord : Obligations.ReadStatusReturnsTheStatusWord := by
  intro s hl
  obtain ⟨hcode, hready, hind, hsel, hzero⟩ := statusWord_fields s
  exact ⟨statusWord s, exec_of_legal hl .readStatus, hcode.trans (rxCode_of_legal hl), hready, hind, hsel, hzero⟩

/-- Settles O18: the effect of the read, for every index. -/
theorem readByteReturnsTheByte : Obligations.ReadByteReturnsTheByte :=
  fun _ idx hl => exec_of_legal hl (.readByte idx)

/-- Settles O19: the effect of the read. -/
theorem readStationIdReturnsByteZero : Obligations.ReadStationIdReturnsByteZero :=
  fun _ hl => exec_of_legal hl .readStationId

/-- Settles O20: the value is the packet type, and its extension to a byte changes no number. -/
theorem readPktTypeReturnsTheLowNibble : Obligations.ReadPktTypeReturnsTheLowNibble :=
  fun s hl => ⟨(packetType s).setWidth 8, exec_of_legal hl .readPktType,
    (BitVec.toNat_setWidth_of_le (by decide)).trans (packetType_toNat s)⟩

end Sys2Proof
end

section
/-! SUPPORT. Which operations an agent issues, and what they do (60_exceptions R200, R206, R207): every run completes, the
Edge Timer leaves a received packet as it is, and a read of the buffer does not look at what the Edge Timer changes. -/

namespace Sys2Proof.Machine

/-! ### Operations and their agents -/

theorem mayIssue_iff {a : Agent} {i : Instr} : a.mayIssue i = true ↔ i.agent = a := decide_eq_true_iff

/-- Where the row with an operation's mnemonic names an agent, it is the operation's: the rows' mnemonics differ, and NOP's
row names none (30_encoding R76). -/
theorem agent_of_row {c : Params} {i : Instr} {r : OpcodeRow} {a : Agent} (hr : r ∈ opcodeTable c)
    (hname : r.mnemonic = i.mnemonic) (hagent : r.agent = some a) : i.agent = a := by
  have hcolumns : (i.mnemonic, some a) ∈ (opcodeTable c).map fun r => (r.mnemonic, r.agent) :=
    List.mem_map.2 ⟨r, hr, by rw [hname, hagent]⟩
  cases i with
  | nop => simp [opcodeTable, Instr.mnemonic] at hcolumns
  | capture | overflow | rxReset | readStatus | readByte | readStationId | readPktType | powerOnReset =>
    simpa [opcodeTable, Instr.mnemonic, Instr.agent, eq_comm] using hcolumns

/-- Besides RX_RESET the Packet Consumer only reads (60_exceptions R207). -/
theorem reads_of_packetConsumer {i : Instr} (hagent : i.agent = .packetConsumer) (hne : i ≠ .rxReset) :
    readsBuffer i = true ∨ i = .readStatus := by
  cases i with
  | readStatus => exact .inr rfl
  | readByte | readStationId | readPktType => exact .inl rfl
  | rxReset => exact absurd rfl hne
  | nop | capture | overflow | powerOnReset => cases hagent

theorem exists_effect_read_eq (c : Params) {i : Instr} (h : readsBuffer i = true ∨ i = .readStatus) (s : State) :
    ∃ v : Byte, effect c i s = { s with returns := v :: s.returns } := by
  obtain ⟨v, hv⟩ := effect_read c h s
  exact ⟨v, hv s.returns⟩

/-! ### Every run completes -/

/-- An accepted configuration takes every list of operations from a legal receiver state to another (60_exceptions
R200). -/
theorem exists_runOps_next {c : Params} (hc : Accepted c) (ops : List Instr) {s : State} (hl : Legal s) :
    ∃ t, runOps c ops s = .next t ∧ Legal t := by
  induction ops generalizing s with
  | nil => exact ⟨s, rfl, hl⟩
  | cons i is ih =>
    rw [runOps_cons_legal hc hl]
    exact ih (effect_legal c i hl)

/-! ### The Edge Timer's operations among the reads of a received packet -/

section Interleaved
variable {c : Params} {i : Instr} {s t u : State}

/-- `t` is `s` but for PREV_TS and EDGE_SEL: all that the Edge Timer changes once a packet is received (41_receive_fsm
R128). -/
def SameButTiming (s t : State) : Prop := t = { s with prevTs := t.prevTs, edgeSel := t.edgeSel }

theorem SameButTiming.refl (s : State) : SameButTiming s s := rfl

theorem SameButTiming.rxState (h : SameButTiming s t) : t.rxState = s.rxState := by rw [h]

theorem SameButTiming.returns (h : SameButTiming s t) : t.returns = s.returns := by rw [h]

theorem SameButTiming.trans (hst : SameButTiming s t) (htu : SameButTiming t u) : SameButTiming s u := by
  rw [SameButTiming, htu, hst]

theorem sameButTiming_effect_edgeTimer (hr : s.rxState = .packetReceived) (hi : i.agent = .edgeTimer) :
    SameButTiming s (effect c i s) := by
  cases i with
  | capture ts => rw [effect_capture_packetReceived c ts hr]; rfl
  | nop | overflow => rfl
  | rxReset | readStatus | readByte | readStationId | readPktType | powerOnReset => cases hi

/-- A read of the buffer looks at neither PREV_TS nor EDGE_SEL, where READ_STATUS shows EDGE_SEL (30_encoding R78). -/
theorem sameButTiming_effect_read (hi : readsBuffer i = true) (h : SameButTiming s t) :
    SameButTiming (effect c i s) (effect c i t) := by
  rw [h]
  cases i with
  | readByte | readStationId | readPktType => rfl
  | nop | capture | overflow | rxReset | readStatus | powerOnReset => cases hi

theorem effect_read_rxState (hi : readsBuffer i = true) (s : State) : (effect c i s).rxState = s.rxState := by
  obtain ⟨v, hv⟩ := exists_effect_read_eq c (.inl hi) s
  rw [hv]

/-- The reads alone and the reads among the Edge Timer's operations end alike but for PREV_TS and EDGE_SEL. -/
theorem runOps_interleaving (hc : Accepted c) {xs ys zs : List Instr} (hzs : Interleaving xs ys zs)
    (hxs : ∀ i ∈ xs, i.agent = .edgeTimer) (hys : ∀ i ∈ ys, readsBuffer i = true) (hr : s.rxState = .packetReceived)
    (hst : SameButTiming s t) :
    ∃ u v, runOps c ys s = .next u ∧ runOps c zs t = .next v ∧ SameButTiming u v := by
  have hlegal {s : State} (hr : s.rxState = .packetReceived) : Legal s := legal_of_rxState hr (by decide)
  induction hzs generalizing s t with
  | done => exact ⟨s, t, rfl, rfl, hst⟩
  | left x _ ih =>
    obtain ⟨hx, hxs⟩ := List.forall_mem_cons.1 hxs
    have hrt : t.rxState = .packetReceived := hst.rxState.trans hr
    rw [runOps_cons_legal hc (hlegal hrt)]
    exact ih hxs hys hr (hst.trans (sameButTiming_effect_edgeTimer hrt hx))
  | right y _ ih =>
    obtain ⟨hy, hys⟩ := List.forall_mem_cons.1 hys
    rw [runOps_cons_legal hc (hlegal hr), runOps_cons_legal hc (hlegal (hst.rxState.trans hr))]
    exact ih hxs hys ((effect_read_rxState hy s).trans hr) (sameButTiming_effect_read hy hst)

end Interleaved

end Sys2Proof.Machine
end

section
/-! PROOFS. The statements of 60_exceptions: totality, the agents' disjoint operations, what the Packet Consumer leaves
unchanged, and the order of the agents' operations. -/

namespace Sys2Proof

open Sys2Proof.Machine

/-- Settles O43: by induction on the operations, since every operation completes and keeps the state legal. -/
theorem everyOperationSequenceCompletes : Obligations.EveryOperationSequenceCompletes :=
  fun _ ops _ hc hl => exists_runOps_next hc ops hl

/-- Settles O46: NOP changes nothing at all, and what is left of the Packet Consumer's operations are the reads. -/
theorem consumerWritesOnlyByReset : Obligations.ConsumerWritesOnlyByReset := by
  intro i s hl hagent hne
  refine ⟨effect hw i s, exec_of_legal hl i, ?_⟩
  obtain hagent | rfl := hagent
  · obtain ⟨v, hv⟩ := exists_effect_read_eq hw (reads_of_packetConsumer (mayIssue_iff.1 hagent) hne) s
    rw [hv]
  · rfl

/-- Settles O51: the Edge Timer's operations change only PREV_TS and EDGE_SEL, which no read of the buffer looks at. -/
theorem readsAreTheSameUnderEveryInterleaving : Obligations.ReadsAreTheSameUnderEveryInterleaving := by
  intro c xs ys zs s hc hr hzs hxs hys
  have hagents : ∀ i ∈ xs, i.agent = .edgeTimer := fun i hi => mayIssue_iff.1 (List.all_eq_true.1 hxs i hi)
  obtain ⟨u, t, hreads, hrun, hsame⟩ := runOps_interleaving hc hzs hagents hys hr (.refl s)
  exact ⟨t, u, hrun, hreads, hsame.returns⟩

/-- Settles O47: the one agent is the one the operation belongs to. -/
theorem agentsHaveDisjointOperations : Obligations.AgentsHaveDisjointOperations :=
  fun i => ⟨⟨i.agent, mayIssue_iff.2 rfl, fun _ hb => (mayIssue_iff.1 hb).symm⟩,
    fun _ _ _ hr hname hagent => mayIssue_iff.2 (agent_of_row hr hname hagent)⟩

end Sys2Proof
end

section
/-! SUPPORT. What a power-on reset leaves in BUF and in the status word (70_reset R230). -/

namespace Sys2Proof.Machine

/-- A buffer in which nothing is listed holds its power-on draw in every byte (10_state R28). -/
theorem bufByte_of_mem_nil {s : State} (hmem : s.mem = []) (i : Nat) :
    bufByte s i = Config.powerOnByte s.draws i := by
  rw [bufByte, hmem, memRead, memUnlisted]

/-- PKT_READY is 0 outside PACKET_RECEIVED (10_state R32). -/
theorem pktReady_of_idle {s : State} (hr : s.rxState = .idle) : pktReady s = false := by
  simp [pktReady, hr]

/-- In IDLE with INDICATOR = 0 the only bit of the status word that can be set is EDGE_SEL's (30_encoding R78). -/
theorem statusWord_of_idle {s : State} (hr : s.rxState = .idle) (hind : s.indicator = false) :
    statusWord s = if s.edgeSel then 0x10 else 0x00 := by
  rw [statusWord, hr, hind, pktReady_of_idle hr]
  cases s.edgeSel <;> rfl

end Sys2Proof.Machine
end

section
/-! PROOFS. The statements of 70_reset_and_hazards: the reset state, and what a power-on reset sets. -/

namespace Sys2Proof

open Sys2Proof.Machine

/-- Settles O10: the registers are the fields of the reset state, in which no byte of BUF is listed and RXSTATE is
IDLE. -/
theorem resetStateIsPostPowerOn : Obligations.ResetStateIsPostPowerOn :=
  ⟨rfl, rfl, rfl, rfl, rfl, rfl, rfl, rfl, bufByte_of_mem_nil rfl, pktReady_of_idle rfl⟩

/-- Settles O11: the next state is `powerOn`'s; its BUF is the next draw with nothing written, and its status word that of
IDLE. -/
theorem powerOnResetSetsEveryRegister : Obligations.PowerOnResetSetsEveryRegister := by
  intro s hl
  have hbuf (i : Nat) (_ : i < 8) : bufByte (powerOn hw s) i = Config.powerOnByte (s.draws + 1) i :=
    bufByte_of_mem_nil (powerOn_mem hw s) i
  have hstatus : statusWord (powerOn hw s) = if Config.edgeSelInit then 0x10 else 0x00 :=
    statusWord_of_idle (powerOn_rxState hw s) (powerOn_indicator hw s)
  exact ⟨powerOn hw s, exec_of_legal hl .powerOnReset, rfl, rfl, rfl, rfl, rfl, rfl, rfl, rfl, hbuf, hstatus, rfl, rfl⟩

end Sys2Proof
end
